-- ==== Sys2Proof/Word.lean ====
section
/-! DEFINITION. The word types of the link and the index types of the part's replicated blocks. -/

namespace Sys2Proof

/-- A byte of the link. -/
abbrev Byte := BitVec 8

/-- A two-byte field of the link. -/
abbrev Half := BitVec 16

/-- A four-byte field of the link. -/
abbrev Word := BitVec 32

/-- A set of lanes 0 to 8: bit n stands for lane n (chapter 11, opening paragraph). -/
abbrev LaneSet := BitVec 9

/-- A set of stations 0 to 3: bit n stands for station n. -/
abbrev StationSet := BitVec 4

/-- Stations 0 to 3 (chapter 00, section 1.1). -/
abbrev StationId := Fin 4

/-- Lanes 0 to 8 of one platform. -/
abbrev LaneId := Fin 9

/-- Panel channels 0 to 35, station times 9 plus lane. -/
abbrev PanelId := Fin 36

/-- Sensor devices D0 to D4. -/
abbrev DeviceId := Fin 5

/-- Cue channels 0 to 7. -/
abbrev ChannelId := Fin 8

/-- Output lines 0 to 47. -/
abbrev LineId := Fin 48

/-- Slots 0 to 255 of cue memory. -/
abbrev SlotId := Fin 256

end Sys2Proof
end

