-- ==== Sys2Proof/Syntax.lean ====
section
/-! DEFINITION. The commands of the block: one constructor of Instr for each row of the operation table. The operands of
a request are the fields of its payload as chapter 11, section 11.4, lays them out, each at its width on the wire. -/

namespace Sys2Proof

/-- The twelve bytes of one bus transaction as the scanner clocks them in (R18): the acknowledgement byte, and the ten
data bytes in the order received, the first in the most significant place. -/
structure Transaction where
  ack : Byte
  data : BitVec 80
  deriving DecidableEq, Repr

/-- The five transactions of one scan round, D0 to D4 in that order (R19). -/
structure RoundData where
  d0 : Transaction
  d1 : Transaction
  d2 : Transaction
  d3 : Transaction
  d4 : Transaction
  deriving DecidableEq, Repr

/-- One value for each of the eight result kinds, in the order of the code table (11.3). -/
structure PerResult (α : Type) where
  exact : α
  close : α
  fair : α
  rough : α
  miss : α
  holdOk : α
  holdLost : α
  mineHit : α
  deriving DecidableEq, Repr

/-- A tempo segment record of TEMPO_PUT (11.4). -/
structure SegmentRec where
  startTick : Word
  kind : Byte
  beats : Byte
  fpbRaw : Word
  stopLength : Word
  deriving DecidableEq, Repr

/-- A note record of NOTES_PUT (11.4); `place` is the chart lane, or the cue channel of a CUE_MARK. -/
structure NoteRec where
  kind : Byte
  place : Byte
  tick : Word
  length : Word
  deriving DecidableEq, Repr

/-- A cue step record of CUE_STEPS_PUT (11.4). -/
structure StepRec where
  mode : Byte
  line : Byte
  level : Byte
  duration : Half
  deriving DecidableEq, Repr

/-- A rung record of LADDER_SET (11.4). -/
structure RungRec where
  threshold : Word
  multiplier : Byte
  deriving DecidableEq, Repr

/-- The fields of SCORING_SET (11.4). -/
structure ScoringRec where
  weights : PerResult Half
  deltas : PerResult Half
  lifeMax : Half
  lifeStart : Half
  deriving DecidableEq, Repr

/-- The fields of WINDOWS_SET (11.4). -/
structure WindowsRec where
  w1 : Half
  w2 : Half
  w3 : Half
  w4 : Half
  wm : Half
  lg : Word
  deriving DecidableEq, Repr

/-- The fields of PANEL_SET (11.4). -/
structure PanelRec where
  station : Byte
  laneMask : Half
  p : Half
  q : Half
  dp : Byte
  dr : Byte
  deriving DecidableEq, Repr

/-- The fields of STATION_SET (11.4). -/
structure StationRec where
  station : Byte
  laneMask : Half
  laneMap : Byte
  noFail : Byte
  reportLevel : Byte
  lookahead : Word
  deriving DecidableEq, Repr

/-- The fields of CUE_CHANNEL_SET (11.4). -/
structure ChannelRec where
  channel : Byte
  firstStep : Byte
  stepCount : Half
  mode : Byte
  endAction : Byte
  retrigger : Byte
  source : Byte
  stationMask : Byte
  laneMask : Half
  resultSet : Byte
  sourceChannel : Byte
  deriving DecidableEq, Repr

/-- The commands. The first fifteen and the last are events of the pins, the timers, the sensor bus and the link; the
others are the requests of section 11.2, in the order of their codes' chapters. -/
inductive Instr where
  /-- RESET held low and released, RATE1:0 at the levels given (R186). -/
  | pinReset (straps : BitVec 2)
  /-- A falling edge on START (R138). -/
  | startFallingEdge
  /-- A rising edge on WCLK (R1). -/
  | wclkEdge
  /-- The watch timer reaches 2 ms (R3). -/
  | watchTimerExpiry
  /-- The halt timer reaches 500 ms (R143). -/
  | haltTimerExpiry
  /-- The scan period elapses and a round starts (R19). -/
  | scanRoundStart
  /-- The fifth transaction of the round has finished (R19). -/
  | scanRoundEnd (data : RoundData)
  /-- Reference time reaches the expiry of the channel's running step (R163). -/
  | stepExpiry (channel : ChannelId)
  /-- A byte has been received, with or without a framing error (R171, R172). -/
  | rxdByte (value : Byte) (framingError : Bool)
  /-- More than 5 ms pass without a byte in a link frame (R174). -/
  | gapTimerExpiry
  /-- RXD has been low for 10 ms (R175). -/
  | linkBreak
  /-- The oldest ended link frame is taken (R177). -/
  | frameTaken
  /-- The last byte of a link frame has left TXD (R179). -/
  | transmitComplete
  /-- The reset that follows the OK of SYSTEM_RESET (R185). -/
  | systemResetEvent
  | identify
  | systemReset
  | noticeMaskSet (mask : BitVec 24)
  | scanSet (period : Half)
  | panelSet (r : PanelRec)
  | calibrate (station : Byte)
  | panelRead (station : Byte)
  | tempoClear (origin : Word)
  | tempoPut (segments : List SegmentRec)
  | windowsSet (r : WindowsRec)
  | scoringSet (r : ScoringRec)
  | ladderSet (rungs : List RungRec)
  | stationSet (r : StationRec)
  | chartOpen (station : Byte) (mode : Byte)
  | notesPut (station : Byte) (baseId : Half) (records : List NoteRec)
  | chartClose (station : Byte)
  | stationStatus (station : Byte)
  | tallyRead (station : Byte)
  | stationClear (station : Byte)
  | songArm (mask : Byte) (startFrame : Word)
  | songGo
  | songAbort (conditions : Byte) (n : Half)
  | songStatus
  | checkpointPush (station : Byte)
  | checkpointPop (station : Byte)
  | checkpointDrop (station : Byte)
  | checkpointRead (station : Byte)
  | cueStepsPut (startSlot : Byte) (steps : List StepRec)
  | cueChannelSet (r : ChannelRec)
  | cueFire (channel : Byte)
  | cueStop (channel : Byte)
  | lineBaseSet (firstLine : Byte) (levels : List Byte)
  | cueStatus (part : Byte)
  /-- RXD returns high after a byte with a framing error or after a link break (R174, R175). -/
  | rxdReturnsHigh
  deriving DecidableEq, Repr

end Sys2Proof
end

