-- ==== Sys2Proof/WellFormed.lean ====
section
/-! DEFINITION. Which commands a link frame can carry: the counts that test 4 of R177 accepts (R187). -/

namespace Sys2Proof

/-- R187: a counted request is accepted when its count is in range; every other command has operands of fixed width. -/
def Instr.wf : Instr → Bool
  | .tempoPut segments => decide (1 ≤ segments.length ∧ segments.length ≤ 16)
  | .notesPut _ _ records => decide (1 ≤ records.length ∧ records.length ≤ 23)
  | .cueStepsPut _ steps => decide (1 ≤ steps.length ∧ steps.length ≤ 40)
  | .ladderSet rungs => decide (rungs.length ≤ 47)
  | .lineBaseSet _ levels => decide (1 ≤ levels.length ∧ levels.length ≤ 48)
  | .pinReset _ | .startFallingEdge | .wclkEdge | .watchTimerExpiry | .haltTimerExpiry | .scanRoundStart
  | .scanRoundEnd _ | .stepExpiry _ | .rxdByte _ _ | .gapTimerExpiry | .linkBreak | .frameTaken | .transmitComplete
  | .systemResetEvent | .identify | .systemReset | .noticeMaskSet _ | .scanSet _ | .panelSet _ | .calibrate _
  | .panelRead _ | .tempoClear _ | .windowsSet _ | .scoringSet _ | .stationSet _ | .chartOpen _ _ | .chartClose _
  | .stationStatus _ | .tallyRead _ | .stationClear _ | .songArm _ _ | .songGo | .songAbort _ _ | .songStatus
  | .checkpointPush _ | .checkpointPop _ | .checkpointDrop _ | .checkpointRead _ | .cueChannelSet _ | .cueFire _
  | .cueStop _ | .cueStatus _ | .rxdReturnsHigh => true

end Sys2Proof
end

