-- ==== Sys2Proof/Decode.lean ====
section
/-! DEFINITION. The link frame codec: byte order, the check of R173, the kind codes of 11.2, and the request payloads of
11.4, read (with the length test of R187) and written. The operation table gives no row any bits, so decodeTableWord
answers none. -/

namespace Sys2Proof

/-! ### Byte order: most significant byte first (chapter 11) -/

/-- A two-byte field as sent. -/
def be16 (h : Half) : List Byte := [h.extractLsb' 8 8, h.extractLsb' 0 8]

/-- A three-byte field as sent. -/
def be24 (m : BitVec 24) : List Byte := [m.extractLsb' 16 8, m.extractLsb' 8 8, m.extractLsb' 0 8]

/-- A four-byte field as sent. -/
def be32 (w : Word) : List Byte :=
  [w.extractLsb' 24 8, w.extractLsb' 16 8, w.extractLsb' 8 8, w.extractLsb' 0 8]

/-- A five-byte field as sent. -/
def be40 (w : BitVec 40) : List Byte :=
  [w.extractLsb' 32 8, w.extractLsb' 24 8, w.extractLsb' 16 8, w.extractLsb' 8 8, w.extractLsb' 0 8]

/-- The two-byte field received as a, b. -/
def half (a b : Byte) : Half := a ++ b

/-- The three-byte field received as a, b, c. -/
def field24 (a b c : Byte) : BitVec 24 := a ++ b ++ c

/-- The four-byte field received as a, b, c, d. -/
def word (a b c d : Byte) : Word := a ++ b ++ c ++ d

/-! ### The check (R173) -/

/-- One bit of the register, generator polynomial 0x1021. -/
def crcShift (r : Half) : Half := if r.msb then (r <<< 1) ^^^ 0x1021#16 else r <<< 1

/-- One byte, most significant bit first. -/
def crcByte (r : Half) (b : Byte) : Half :=
  let r := r ^^^ (b ++ 0#8)
  crcShift (crcShift (crcShift (crcShift (crcShift (crcShift (crcShift (crcShift r)))))))

/-- R173: the check over LEN, KIND and the payload; the register starts at 0xFFFF and the result is not inverted. -/
def crc16 (bytes : List Byte) : Half := bytes.foldl crcByte 0xFFFF#16

/-- The SYNC byte of every link frame (11.1). -/
def syncByte : Byte := 0x5A#8

/-- A whole link frame: SYNC, LEN, KIND, payload and a correct check (11.1, R173). -/
def frameBytes (kind : Byte) (payload : List Byte) : List Byte :=
  let covered := BitVec.ofNat 8 payload.length :: kind :: payload
  syncByte :: covered ++ be16 (crc16 covered)

/-! ### Records of the requests -/

def SegmentRec.bytes (r : SegmentRec) : List Byte :=
  be32 r.startTick ++ [r.kind, r.beats] ++ be32 r.fpbRaw ++ be32 r.stopLength

def NoteRec.bytes (r : NoteRec) : List Byte := [r.kind, r.place] ++ be32 r.tick ++ be32 r.length

def StepRec.bytes (r : StepRec) : List Byte := [r.mode, r.line, r.level] ++ be16 r.duration

def RungRec.bytes (r : RungRec) : List Byte := be32 r.threshold ++ [r.multiplier]

/-- The eight fields in the order of the result codes. -/
def PerResult.toList {α : Type} (p : PerResult α) : List α :=
  [p.exact, p.close, p.fair, p.rough, p.miss, p.holdOk, p.holdLost, p.mineHit]

/-- Exactly n segment records of 14 bytes each. -/
def readSegments : Nat → List Byte → Option (List SegmentRec)
  | 0, [] => some []
  | n + 1, a :: b :: c :: d :: k :: m :: e :: f :: g :: h :: i :: j :: l :: o :: rest =>
    (readSegments n rest).map (⟨word a b c d, k, m, word e f g h, word i j l o⟩ :: ·)
  | _, _ => none

/-- Exactly n note records of 10 bytes each. -/
def readNotes : Nat → List Byte → Option (List NoteRec)
  | 0, [] => some []
  | n + 1, k :: p :: a :: b :: c :: d :: e :: f :: g :: h :: rest =>
    (readNotes n rest).map (⟨k, p, word a b c d, word e f g h⟩ :: ·)
  | _, _ => none

/-- Exactly n cue step records of 5 bytes each. -/
def readSteps : Nat → List Byte → Option (List StepRec)
  | 0, [] => some []
  | n + 1, m :: l :: v :: a :: b :: rest => (readSteps n rest).map (⟨m, l, v, half a b⟩ :: ·)
  | _, _ => none

/-- Exactly n rungs of 5 bytes each. -/
def readRungs : Nat → List Byte → Option (List RungRec)
  | 0, [] => some []
  | n + 1, a :: b :: c :: d :: m :: rest => (readRungs n rest).map (⟨word a b c d, m⟩ :: ·)
  | _, _ => none

/-- Eight two-byte fields. -/
def readEight : List Byte → Option (PerResult Half × List Byte)
  | a :: b :: c :: d :: e :: f :: g :: h :: i :: j :: k :: l :: m :: n :: o :: p :: rest =>
    some (⟨half a b, half c d, half e f, half g h, half i j, half k l, half m n, half o p⟩, rest)
  | _ => none

/-! ### Requests -/

/-- 11.2: the code of a request; none for a command that is not a request of the link. -/
def Instr.kind : Instr → Option Byte
  | .identify => some 0x01#8
  | .systemReset => some 0x02#8
  | .noticeMaskSet _ => some 0x03#8
  | .scanSet _ => some 0x04#8
  | .panelSet _ => some 0x05#8
  | .calibrate _ => some 0x06#8
  | .panelRead _ => some 0x07#8
  | .tempoClear _ => some 0x08#8
  | .tempoPut _ => some 0x09#8
  | .windowsSet _ => some 0x0A#8
  | .scoringSet _ => some 0x0B#8
  | .ladderSet _ => some 0x0C#8
  | .stationSet _ => some 0x0D#8
  | .chartOpen _ _ => some 0x0E#8
  | .notesPut _ _ _ => some 0x0F#8
  | .chartClose _ => some 0x10#8
  | .stationStatus _ => some 0x11#8
  | .tallyRead _ => some 0x12#8
  | .stationClear _ => some 0x13#8
  | .songArm _ _ => some 0x14#8
  | .songGo => some 0x15#8
  | .songAbort _ _ => some 0x16#8
  | .songStatus => some 0x17#8
  | .checkpointPush _ => some 0x18#8
  | .checkpointPop _ => some 0x19#8
  | .checkpointDrop _ => some 0x1A#8
  | .checkpointRead _ => some 0x1B#8
  | .cueStepsPut _ _ => some 0x1C#8
  | .cueChannelSet _ => some 0x1D#8
  | .cueFire _ => some 0x1E#8
  | .cueStop _ => some 0x1F#8
  | .lineBaseSet _ _ => some 0x20#8
  | .cueStatus _ => some 0x21#8
  | .pinReset _ | .startFallingEdge | .wclkEdge | .watchTimerExpiry | .haltTimerExpiry | .scanRoundStart
  | .scanRoundEnd _ | .stepExpiry _ | .rxdByte _ _ | .gapTimerExpiry | .linkBreak | .frameTaken | .transmitComplete
  | .systemResetEvent | .rxdReturnsHigh => none

/-- 11.4: the payload bytes of a request. -/
def Instr.payload : Instr → List Byte
  | .noticeMaskSet mask => be24 mask
  | .scanSet period => be16 period
  | .panelSet r => r.station :: be16 r.laneMask ++ be16 r.p ++ be16 r.q ++ [r.dp, r.dr]
  | .calibrate station | .panelRead station | .chartClose station | .stationStatus station | .tallyRead station
  | .stationClear station | .checkpointPush station | .checkpointPop station | .checkpointDrop station
  | .checkpointRead station => [station]
  | .cueFire channel | .cueStop channel => [channel]
  | .cueStatus part => [part]
  | .tempoClear origin => be32 origin
  | .tempoPut segments => BitVec.ofNat 8 segments.length :: segments.flatMap SegmentRec.bytes
  | .windowsSet r => be16 r.w1 ++ be16 r.w2 ++ be16 r.w3 ++ be16 r.w4 ++ be16 r.wm ++ be32 r.lg
  | .scoringSet r => r.weights.toList.flatMap be16 ++ r.deltas.toList.flatMap be16 ++ be16 r.lifeMax ++ be16 r.lifeStart
  | .ladderSet rungs => BitVec.ofNat 8 rungs.length :: rungs.flatMap RungRec.bytes
  | .stationSet r =>
    r.station :: be16 r.laneMask ++ [r.laneMap, r.noFail, r.reportLevel] ++ be32 r.lookahead
  | .chartOpen station mode => [station, mode]
  | .notesPut station baseId records =>
    station :: be16 baseId ++ [BitVec.ofNat 8 records.length] ++ records.flatMap NoteRec.bytes
  | .songArm mask startFrame => mask :: be32 startFrame
  | .songAbort conditions n => conditions :: be16 n
  | .cueStepsPut startSlot steps => startSlot :: BitVec.ofNat 8 steps.length :: steps.flatMap StepRec.bytes
  | .cueChannelSet r =>
    [r.channel, r.firstStep] ++ be16 r.stepCount ++ [r.mode, r.endAction, r.retrigger, r.source, r.stationMask] ++
      be16 r.laneMask ++ [r.resultSet, r.sourceChannel]
  | .lineBaseSet firstLine levels => firstLine :: levels
  | .identify | .systemReset | .songGo | .songStatus => []
  | .pinReset _ | .startFallingEdge | .wclkEdge | .watchTimerExpiry | .haltTimerExpiry | .scanRoundStart
  | .scanRoundEnd _ | .stepExpiry _ | .rxdByte _ _ | .gapTimerExpiry | .linkBreak | .frameTaken | .transmitComplete
  | .systemResetEvent | .rxdReturnsHigh => []

/-- The link frame that carries a request, encoded from 11.1, 11.2 and 11.4; empty for a command that is none. -/
def Instr.frame (i : Instr) : List Byte :=
  match i.kind with
  | some k => frameBytes k i.payload
  | none => []

/-- What tests 3 and 4 of R177 find of a KIND and its payload. -/
inductive Decoded where
  | unknownKind
  | badLength
  | request (i : Instr)
  deriving DecidableEq, Repr

/-- A request whose payload has the length its kind may have, or BAD_LENGTH. -/
def Decoded.ofOption : Option Instr → Decoded
  | some i => .request i
  | none => .badLength

/-- A request of no parameter. -/
def readNone (i : Instr) : List Byte → Option Instr
  | [] => some i
  | _ => none

/-- A request of one one-byte parameter. -/
def readByte (f : Byte → Instr) : List Byte → Option Instr
  | [a] => some (f a)
  | _ => none

/-- A counted request: its count byte in range, and as many records as it says. -/
def readTempoPut : List Byte → Option Instr
  | n :: rest =>
    if 1 ≤ n.toNat ∧ n.toNat ≤ 16 then (readSegments n.toNat rest).map Instr.tempoPut else none
  | [] => none

def readNotesPut : List Byte → Option Instr
  | s :: a :: b :: n :: rest =>
    if 1 ≤ n.toNat ∧ n.toNat ≤ 23 then (readNotes n.toNat rest).map (Instr.notesPut s (half a b)) else none
  | _ => none

def readCueStepsPut : List Byte → Option Instr
  | s :: n :: rest =>
    if 1 ≤ n.toNat ∧ n.toNat ≤ 40 then (readSteps n.toNat rest).map (Instr.cueStepsPut s) else none
  | _ => none

/-- LADDER_SET: any count byte whose LEN agrees (R187); the score unit tests the count (R112). -/
def readLadderSet : List Byte → Option Instr
  | n :: rest => (readRungs n.toNat rest).map Instr.ladderSet
  | [] => none

/-- LINE_BASE_SET: LEN is 2 to 49 (R187). -/
def readLineBaseSet : List Byte → Option Instr
  | f :: levels => if 1 ≤ levels.length ∧ levels.length ≤ 48 then some (.lineBaseSet f levels) else none
  | [] => none

def readScoringSet (p : List Byte) : Option Instr :=
  match readEight p with
  | some (weights, rest) =>
    match readEight rest with
    | some (deltas, [a, b, c, d]) => some (.scoringSet ⟨weights, deltas, half a b, half c d⟩)
    | _ => none
  | none => none

def readPanelSet : List Byte → Option Instr
  | [s, a, b, c, d, e, f, dp, dr] => some (.panelSet ⟨s, half a b, half c d, half e f, dp, dr⟩)
  | _ => none

def readWindowsSet : List Byte → Option Instr
  | [a, b, c, d, e, f, g, h, i, j, k, l, m, n] =>
    some (.windowsSet ⟨half a b, half c d, half e f, half g h, half i j, word k l m n⟩)
  | _ => none

def readStationSet : List Byte → Option Instr
  | [s, a, b, m, n, r, c, d, e, f] => some (.stationSet ⟨s, half a b, m, n, r, word c d e f⟩)
  | _ => none

def readCueChannelSet : List Byte → Option Instr
  | [c, f, a, b, m, e, r, s, st, d, g, rs, k] =>
    some (.cueChannelSet ⟨c, f, half a b, m, e, r, s, st, half d g, rs, k⟩)
  | _ => none

def readNoticeMaskSet : List Byte → Option Instr
  | [a, b, c] => some (.noticeMaskSet (field24 a b c))
  | _ => none

def readScanSet : List Byte → Option Instr
  | [a, b] => some (.scanSet (half a b))
  | _ => none

def readTempoClear : List Byte → Option Instr
  | [a, b, c, d] => some (.tempoClear (word a b c d))
  | _ => none

def readChartOpen : List Byte → Option Instr
  | [s, m] => some (.chartOpen s m)
  | _ => none

def readSongArm : List Byte → Option Instr
  | [m, a, b, c, d] => some (.songArm m (word a b c d))
  | _ => none

def readSongAbort : List Byte → Option Instr
  | [c, a, b] => some (.songAbort c (half a b))
  | _ => none

/-- Tests 3 and 4 of R177: the request that a KIND byte and a payload spell (11.2, 11.4, R187). -/
def decodeRequest (kind : Byte) (p : List Byte) : Decoded :=
  match kind.toNat with
  | 0x01 => .ofOption (readNone .identify p)
  | 0x02 => .ofOption (readNone .systemReset p)
  | 0x03 => .ofOption (readNoticeMaskSet p)
  | 0x04 => .ofOption (readScanSet p)
  | 0x05 => .ofOption (readPanelSet p)
  | 0x06 => .ofOption (readByte .calibrate p)
  | 0x07 => .ofOption (readByte .panelRead p)
  | 0x08 => .ofOption (readTempoClear p)
  | 0x09 => .ofOption (readTempoPut p)
  | 0x0A => .ofOption (readWindowsSet p)
  | 0x0B => .ofOption (readScoringSet p)
  | 0x0C => .ofOption (readLadderSet p)
  | 0x0D => .ofOption (readStationSet p)
  | 0x0E => .ofOption (readChartOpen p)
  | 0x0F => .ofOption (readNotesPut p)
  | 0x10 => .ofOption (readByte .chartClose p)
  | 0x11 => .ofOption (readByte .stationStatus p)
  | 0x12 => .ofOption (readByte .tallyRead p)
  | 0x13 => .ofOption (readByte .stationClear p)
  | 0x14 => .ofOption (readSongArm p)
  | 0x15 => .ofOption (readNone .songGo p)
  | 0x16 => .ofOption (readSongAbort p)
  | 0x17 => .ofOption (readNone .songStatus p)
  | 0x18 => .ofOption (readByte .checkpointPush p)
  | 0x19 => .ofOption (readByte .checkpointPop p)
  | 0x1A => .ofOption (readByte .checkpointDrop p)
  | 0x1B => .ofOption (readByte .checkpointRead p)
  | 0x1C => .ofOption (readCueStepsPut p)
  | 0x1D => .ofOption (readCueChannelSet p)
  | 0x1E => .ofOption (readByte .cueFire p)
  | 0x1F => .ofOption (readByte .cueStop p)
  | 0x20 => .ofOption (readLineBaseSet p)
  | 0x21 => .ofOption (readByte .cueStatus p)
  | _ => .unknownKind

/-- The command a word of the operation table spells: the table gives no row any bits, so there is none. -/
def decodeTableWord (_nbits _w : Nat) : Option Instr := none

end Sys2Proof
end

