-- ==== Sys2Proof/Config.lean ====
section
/-! DEFINITION. What the spec leaves open: free values. No constant here has a body, so nothing can be proved of its value. -/

namespace Sys2Proof.Config

/-- Free value: how the n-th open order is decided, where the spec says that "either may be taken first" or that
"no order among them is defined" (R15, R26, R37, R83, R129, R146, R159, R180). Log 6. -/
opaque openChoice : Nat → Nat

/-- Free value: what a chart count of R61 holds after it would have risen past 2^32 - 1. Log 9. -/
opaque chartCountPastMax : Nat → Word

end Sys2Proof.Config
end

