-- ==== Sys2Proof/Machine/State.lean ====
section
/-! DEFINITION. The state of the part as plain data, every piece of it that the spec names, and State.reset, the state
right after a pin reset (R17, R36, R63, R123, R150, R170, R186). -/

namespace Sys2Proof.Machine

/-! ### Song clock (chapter 01) -/

/-- R3: the two states of the clock watch. -/
inductive Watch where
  | absent
  | present
  deriving DecidableEq, Repr

/-- R5: what a segment of the tempo map holds beside its start. -/
inductive SegmentBody where
  /-- frames-per-beat as its raw 16.16 value, and beats per measure -/
  | beat (fpbRaw beats : Nat)
  /-- stop length in frames -/
  | stop (length : Nat)
  deriving DecidableEq, Repr

/-- R5: a tempo segment, with the start frame computed when it was appended (R6). -/
structure Segment where
  startTick : Nat
  startFrame : Int
  body : SegmentBody
  deriving DecidableEq, Repr

/-- R13: the position of a measure pulse (its segment, and which pulse of the segment) and its frame. -/
structure Pulse where
  segment : Nat
  index : Nat
  frame : Int
  deriving DecidableEq, Repr

/-- The song clock's values (table of 1.1). -/
structure SongClock where
  songTime : Word
  watch : Watch
  /-- running since this reference time, or stopped (R3) -/
  watchTimer : Option Nat
  map : List Segment
  origin : Int
  measure : Half
  nextPulse : Option Pulse
  deriving DecidableEq, Repr

/-! ### Scanner (chapter 02) -/

/-- The six contact states of 2.5. -/
inductive Contact where
  | up
  | pressing
  | down
  | releasing
  | stuck
  | fault
  deriving DecidableEq, Repr

/-- R21, R22: a sensor device's presence. -/
inductive Presence where
  | absent
  | present
  deriving DecidableEq, Repr

/-- R21, R22: the presence record of a sensor device. -/
structure Device where
  presence : Presence
  unanswered : Nat
  answered : Nat
  deriving DecidableEq, Repr

/-- R23 to R29: what the scanner holds for one panel channel. -/
structure Channel where
  contact : Contact
  dwell : Nat
  crossing : Option Int
  stuckCount : Nat
  reading : Nat
  level : Nat
  baseline : Nat
  p : Nat
  q : Nat
  dp : Nat
  dr : Nat
  deriving DecidableEq, Repr

/-- R30, R31: one lane of a calibration job. -/
structure LaneSum where
  sum : Nat
  min : Nat
  max : Nat
  unsettled : Bool
  deriving DecidableEq, Repr

/-- R30, R31: a running calibration job; `skip` while the round in progress when it began has not ended. -/
structure CalJob where
  rounds : Nat
  skip : Bool
  lanes : Vector LaneSum 9
  deriving DecidableEq, Repr

/-- R30, R33, R34: the scanner's record of one station. -/
structure PanelGroup where
  job : Option CalJob
  uncalibrated : Bool
  lastUnsettled : LaneSet
  deriving DecidableEq, Repr

/-- R19: the round in progress; `void` after a system reset took it (R36). -/
structure Round where
  stamp : Int
  void : Bool
  deriving DecidableEq, Repr

/-- The scanner's state (2.11). -/
structure Scanner where
  /-- scan period in microseconds -/
  period : Nat
  /-- the reference time from which the next round's start is counted -/
  lastStart : Nat
  round : Option Round
  devices : Vector Device 5
  channels : Vector Channel 36
  groups : Vector PanelGroup 4
  deriving DecidableEq, Repr

/-- R26: why a release came. -/
inductive ReleaseCause where
  | confirmed
  | stuck
  | fault
  deriving DecidableEq, Repr

/-- R26: the kinds of contact event. -/
inductive ContactKind where
  | press
  | release (cause : ReleaseCause)
  | withdrawn
  deriving DecidableEq, Repr

/-- R26: a contact event as the scanner hands it to a judgement engine. -/
structure ContactEvent where
  station : StationId
  lane : LaneId
  kind : ContactKind
  time : Int
  deriving DecidableEq, Repr

/-! ### Results, score and checkpoints (chapters 06, 07) -/

/-- The eight result kinds (R84). -/
inductive ResultKind where
  | exact
  | close
  | fair
  | rough
  | miss
  | holdOk
  | holdLost
  | mineHit
  deriving DecidableEq, Repr

/-- The four grades of R64, best first. -/
inductive Grade where
  | exact
  | close
  | fair
  | rough
  deriving DecidableEq, Repr

/-- R120: the session tally, less max combo, which the context holds once. -/
structure Tally where
  counts : PerResult Nat
  strays : Nat
  wouldHaveFailed : Bool
  deriving DecidableEq, Repr

/-- R107: a score context; also the form of a saved context record (R124). EXT is a view of the accumulator (R115). -/
structure ScoreContext where
  accumulator : Int
  ovf : Bool
  combo : Nat
  maxCombo : Nat
  rung : Nat
  life : Nat
  tally : Tally
  deriving DecidableEq, Repr

/-- R117: weights, life deltas, life max and life start, shared by the stations. -/
structure Scoring where
  weights : PerResult Int
  deltas : PerResult Int
  lifeMax : Nat
  lifeStart : Nat
  deriving DecidableEq, Repr

/-- R111: a rung of the combo ladder. -/
structure Rung where
  threshold : Nat
  multiplier : Nat
  deriving DecidableEq, Repr

/-! ### Stations and judgement engines (chapters 03, 04, 05) -/

/-- R37: the six station states. -/
inductive StationState where
  | vacant
  | loaded
  | playing
  | cleared
  | failed
  | aborted
  deriving DecidableEq, Repr

/-- R37: the three ends of a station. -/
inductive EndState where
  | cleared
  | failed
  | aborted
  deriving DecidableEq, Repr

/-- R39: the eight lane maps. -/
inductive LaneMap where
  | identity
  | rot90
  | rot180
  | rot270
  | mirrorLr
  | mirrorFb
  | mirrorDiag
  | mirrorAnti
  deriving DecidableEq, Repr

/-- R85: the two report levels. -/
inductive ReportLevel where
  | results
  | silent
  deriving DecidableEq, Repr

/-- The five note kinds (R45). -/
inductive NoteKind where
  | tap
  | hold
  | mine
  | cueMark
  | endMark
  deriving DecidableEq, Repr

/-- R45: the fields of an entry that depend on its kind. -/
inductive EntryBody where
  | tap (chartLane lane : LaneId)
  | hold (chartLane lane : LaneId) (tailTick : Nat) (tailFrame : Int)
  | mine (chartLane lane : LaneId)
  | cueMark (channel : ChannelId)
  | endMark
  deriving DecidableEq, Repr

/-- R45: the entry states; a JUDGED chord member carries its grade and offset. -/
inductive EntryState where
  | queued
  | opened
  | judged (grade : Grade) (offset : Int)
  | holding
  deriving DecidableEq, Repr

/-- R52: the chord group field. -/
structure ChordGroup where
  count : Nat
  lanes : LaneSet
  deriving DecidableEq, Repr

/-- R45: a note queue entry. `seq` is the model's own name for it, its place in the order of acceptance (log 24). -/
structure Entry where
  seq : Nat
  noteId : Half
  tick : Nat
  frame : Int
  body : EntryBody
  chord : Option ChordGroup
  state : EntryState
  deriving DecidableEq, Repr

/-- R48, R53: the intake record, and the serial of the next accepted entry (log 24). -/
structure Intake where
  lastTick : Option Nat
  lastFrame : Option Int
  lastKind : Option NoteKind
  lastClose : Option Int
  lastLanes : LaneSet
  chordCount : Nat
  tails : Vector (Option Nat) 9
  sealedTick : Option Nat
  nextSeq : Nat
  deriving DecidableEq, Repr

/-- R61: the chart counts, named in the order of 11.7. -/
inductive CountKind where
  | stepsAccepted
  | minesAccepted
  | markersAccepted
  | exactNotes
  | closeNotes
  | fairNotes
  | roughNotes
  | missNotes
  | holdOk
  | holdLost
  | minesHit
  | minesAvoided
  | stepsDrained
  | minesDrained
  | lateRefusals
  deriving DecidableEq, Repr

/-- R76: an item of the held close list: the lone entry, or the first member of the chord, and the lanes waited on, less
those that have left PRESSING during a halt (R88). -/
structure HeldClose where
  seq : Nat
  waits : LaneSet
  deriving DecidableEq, Repr

/-- R89: the deadline of a hold item. -/
inductive Deadline where
  | none
  | pending (frame : Int)
  | held (frame : Int)
  deriving DecidableEq, Repr

/-- R89: an item of the hold list; its entry is found in the queue by `seq`. -/
structure HoldItem where
  lane : LaneId
  seq : Nat
  deadline : Deadline
  deriving DecidableEq, Repr

/-- The station record (3.1) with its judgement engine (R66), score context (R107) and checkpoint stack (R124). -/
structure Station where
  state : StationState
  laneMask : LaneSet
  laneMap : LaneMap
  noFail : Bool
  reportLevel : ReportLevel
  lookahead : Nat
  queue : List Entry
  intake : Intake
  endAccepted : Bool
  endPassed : Bool
  starving : Bool
  starved : Bool
  counts : Vector Word 15
  heldCloses : List HeldClose
  carriedIn : LaneSet
  holds : List HoldItem
  context : ScoreContext
  /-- saved contexts, the top of the stack first -/
  stack : List ScoreContext
  pushPending : Bool
  deriving DecidableEq, Repr

/-- R65: the widths shared by the stations. -/
structure Windows where
  w1 : Nat
  w2 : Nat
  w3 : Nat
  w4 : Nat
  wm : Nat
  lg : Nat
  deriving DecidableEq, Repr

/-! ### Song control (chapter 08) -/

/-- R136: the five song states. -/
inductive SongState where
  | stopped
  | armed
  | running
  | halted
  | finished
  deriving DecidableEq, Repr

/-- R136: the finish causes. -/
inductive FinishCause where
  | none
  | complete
  | aborted
  | clock
  deriving DecidableEq, Repr

/-- R136, R143: the halt timer. -/
inductive HaltTimer where
  | stopped (ms : Nat)
  | running (since : Nat)
  deriving DecidableEq, Repr

/-- R144: a set of abort conditions. -/
structure AbortSet where
  now : Bool
  atMeasure : Bool
  onFail : Bool
  atMeasureN : Bool
  deriving DecidableEq, Repr

/-- R136: the song record, and the station end events song control holds (R139). -/
structure Song where
  state : SongState
  armed : StationSet
  startFrame : Int
  latch : Bool
  abortSet : AbortSet
  abortMeasure : Half
  cause : FinishCause
  halt : HaltTimer
  ends : List (StationId × EndState)
  deriving DecidableEq, Repr

/-! ### Cue engine (chapter 09) -/

/-- R154: the target modes. -/
inductive TargetMode where
  | fixed
  | triggerLane
  | advance
  deriving DecidableEq, Repr

/-- R154: a cue step record. -/
structure CueStep where
  mode : TargetMode
  line : LineId
  level : Byte
  duration : Nat
  deriving DecidableEq, Repr

/-- R151: the owner of a line. -/
structure Owner where
  channel : ChannelId
  serial : Half
  deriving DecidableEq, Repr

/-- R151: an output line's record. -/
structure Line where
  base : Byte
  current : Byte
  owner : Option Owner
  deriving DecidableEq, Repr

/-- R156: SINGLE or RUN. -/
inductive CueMode where
  | single
  | run
  deriving DecidableEq, Repr

/-- R156: STOP or LOOP. -/
inductive EndAction where
  | stop
  | loop
  deriving DecidableEq, Repr

/-- R156: RESTART or IGNORE. -/
inductive Retrigger where
  | restart
  | ignore
  deriving DecidableEq, Repr

/-- R156: the trigger sources. -/
inductive TriggerSource where
  | none
  | linkFire
  | measure
  | result
  | stationEnd
  | songStart
  | chartMark
  | channelStep
  | channelDone
  deriving DecidableEq, Repr

/-- R157: a trigger record. -/
structure TriggerRec where
  station : Option StationId
  lane : Option LaneId
  deriving DecidableEq, Repr

/-- R159: a trigger as it is raised. -/
inductive Trigger where
  | linkFire (channel : ChannelId)
  | measure
  | result (station : StationId) (kind : ResultKind) (lanes : LaneSet)
  | stationEnd (station : StationId)
  | songStart
  | chartMark (channel : ChannelId)
  | channelStep (k : ChannelId) (record : TriggerRec)
  | channelDone (k : ChannelId) (record : TriggerRec)
  deriving DecidableEq, Repr

/-- R156: the configuration of a cue channel; k is kept as carried (R158 checks it only where it is used). -/
structure CueConfig where
  first : SlotId
  count : Nat
  mode : CueMode
  endAction : EndAction
  retrigger : Retrigger
  source : TriggerSource
  stations : StationSet
  lanes : LaneSet
  results : Byte
  k : Byte
  deriving DecidableEq, Repr

/-- R157: a running step: the values read, its line, its serial, its trigger record and its expiry. -/
structure RunningStep where
  step : CueStep
  line : LineId
  serial : Half
  record : TriggerRec
  expiry : Nat
  deriving DecidableEq, Repr

/-- R157: the channel states; a STEPPING channel holds its running step. -/
inductive ChannelState where
  | off
  | armed
  | stepping (r : RunningStep)
  | done
  deriving DecidableEq, Repr

/-- R156, R157: a cue channel. -/
structure CueChannel where
  config : CueConfig
  state : ChannelState
  pointer : Nat
  waiting : List TriggerRec
  overrun : Bool
  lastLine : Option LineId
  serial : Half
  deriving DecidableEq, Repr

/-- The cue engine's state (9.10). -/
structure CueEngine where
  lines : Vector Line 48
  memory : Vector CueStep 256
  channels : Vector CueChannel 8
  deriving DecidableEq, Repr

/-! ### Reports and link port (chapter 10) -/

/-- R114: the bound a saturation reached. -/
inductive Bound where
  | high
  | low
  deriving DecidableEq, Repr

/-- R134: the point at which a pending push was taken. -/
inductive PushPoint where
  | quiet
  | ended (e : EndState)
  deriving DecidableEq, Repr

/-- The eighteen notice kinds with the fields each carries (11.9), song time apart. -/
inductive Notice where
  | songStarted (armed : StationSet)
  | songFinished (cause : FinishCause) (measure : Half)
  | clockLost
  | clockBack (ms : Nat)
  | measure (number : Half)
  | starving (station : StationId) (lookahead : Int)
  | starved (station : StationId)
  | cleared (station : StationId) (displayed : Nat)
  | failed (station : StationId) (displayed : Nat)
  | panelStuck (station : StationId) (lane : LaneId) (stamp : Int)
  | panelFault (station : StationId) (device : DeviceId) (lanes : LaneSet) (stamp : Int)
  | panelOk (station : StationId) (device : DeviceId) (lanes : LaneSet) (stamp : Int)
  | calibrated (station : StationId) (unsettled : LaneSet) (cancelled : Bool) (stamp : Int)
  | checkpointTaken (station : StationId) (depth : Nat) (displayed : Nat) (point : PushPoint)
  | checkpointCancelled (station : StationId)
  | scoreOvf (station : StationId) (bound : Bound)
  | cueDone (channel : ChannelId) (endAction : EndAction)
  | cueOverrun (channel : ChannelId)
  deriving DecidableEq, Repr

/-- R84: the fields of a RESULT report. -/
structure ResultReport where
  station : StationId
  kind : ResultKind
  noteId : Half
  chartLane : LaneId
  lanes : LaneSet
  offset : Option Int
  songTime : Int
  comboAfter : Nat
  displayedAfter : Nat
  lifeAfter : Nat
  rungAfter : Nat
  deriving DecidableEq, Repr

/-- R180: a record of the report queue, with the values its owner placed in it. -/
inductive Report where
  | result (r : ResultReport)
  | notice (songTime : Int) (n : Notice)
  deriving DecidableEq, Repr

/-- What a block hands on while it takes a hand-off: a report for the report queue (R180), or a trigger for one of the
channels that take it (R159). -/
inductive Post where
  | report (r : Report)
  | trigger (t : Trigger) (channel : ChannelId)
  deriving DecidableEq, Repr

/-- R171: the four link rates. -/
inductive LinkRate where
  | r115200
  | r460800
  | r921600
  | r2000000
  deriving DecidableEq, Repr

/-- R174, R175: RXD as the receiver sees it. -/
inductive RxdLine where
  | high
  /-- still low after a byte with a framing error -/
  | low
  /-- low, and a link break has been taken -/
  | broken
  deriving DecidableEq, Repr

/-- R172: the framer's five states, with LEN and the bytes still to come. -/
inductive Framer where
  | hunt
  | length
  | kind (len : Nat)
  | body (left : Nat)
  | check (left : Nat)
  deriving DecidableEq, Repr

/-- R174: the gap timer. -/
inductive GapTimer where
  | stopped
  | running (since : Nat)
  | suspended
  deriving DecidableEq, Repr

/-- R172, R177: a link frame that has ended, as its stored bytes. -/
structure InFrame where
  bytes : List Byte
  truncated : Bool
  deriving DecidableEq, Repr

/-- R178, R189: a reply; `thenReset` marks the OK of SYSTEM_RESET (R185). -/
structure Reply where
  kind : Byte
  payload : List Byte
  thenReset : Bool
  deriving DecidableEq, Repr

/-- R179: what the transmitter can be sending. -/
inductive TxFrame where
  | reply (r : Reply)
  | lost (count : Nat)
  | report (r : Report)
  deriving DecidableEq, Repr

/-- The link port's state (10.7). -/
structure LinkPort where
  rate : LinkRate
  rxd : RxdLine
  framer : Framer
  /-- the stored bytes of the link frame in progress -/
  current : List Byte
  gap : GapTimer
  /-- the link frames that have ended and have not been taken, oldest first -/
  ended : List InFrame
  slot : Option Reply
  tx : Option TxFrame
  /-- the report queue, oldest first -/
  reports : List Report
  loss : Nat
  mask : BitVec 24
  /-- the OK of SYSTEM_RESET has left TXD and the reset event is due (R185, log 5) -/
  resetDue : Bool
  /-- reports on their way to the queue, whose order against song control's is open (log 6) -/
  held : List Report
  deriving DecidableEq, Repr

/-! ### The whole part -/

/-- The state of the part and the queue of its commands. -/
structure State where
  /-- commands waiting, the next one first -/
  pending : List Instr
  /-- reference time, in CLKIN cycles (chapter 00, section 2) -/
  refTime : Nat
  clock : SongClock
  scanner : Scanner
  stations : Vector Station 4
  windows : Windows
  scoring : Scoring
  ladder : List Rung
  song : Song
  cue : CueEngine
  link : LinkPort
  /-- while a hand-off is taken, what its block has posted, first one first (log 33) -/
  outbox : Option (List Post)
  /-- free value (log 6): how the next open orders are decided, first one first -/
  choices : List Nat
  /-- free value (log 6): how many open orders have been decided by Config.openChoice -/
  choiceCount : Nat
  deriving DecidableEq, Repr

/-- The spec names no condition that stops the part: a refused request is a reply, a rejected frame is a REJECT. There
is no fault. -/
inductive Fault where
  deriving DecidableEq, Repr

/-- Why a command has no meaning in the model. -/
inductive Refusal where
  /-- Raised by exec alone, for a command that is not modelled yet; safe, since the machine stops there. -/
  | notModelled (mnemonic : String)
  deriving DecidableEq, Repr

/-! ### Reset values -/

end Sys2Proof.Machine

namespace Sys2Proof

/-- One value for all eight result kinds. -/
def PerResult.all {α : Type} (a : α) : PerResult α := ⟨a, a, a, a, a, a, a, a⟩

end Sys2Proof

namespace Sys2Proof.Machine

/-- R17: the song clock after either reset. -/
def SongClock.reset : SongClock :=
  { songTime := 0, watch := .absent, watchTimer := none, map := [], origin := 0, measure := 0, nextPulse := none }

/-- R21, R22: a device after a pin reset. -/
def Device.reset : Device := { presence := .present, unanswered := 0, answered := 0 }

/-- R29, R36: a panel channel after a pin reset. -/
def Channel.reset : Channel :=
  { contact := .up, dwell := 0, crossing := none, stuckCount := 0, reading := 0, level := 0, baseline := 0,
    p := 180, q := 120, dp := 2, dr := 3 }

/-- R33, R36: the scanner's record of a station after a pin reset. -/
def PanelGroup.reset : PanelGroup := { job := none, uncalibrated := true, lastUnsettled := 0 }

/-- R36: the scanner after a pin reset; the first round comes one period after RESET is released. -/
def Scanner.reset : Scanner :=
  { period := 1000, lastStart := 0, round := none, devices := Vector.replicate 5 Device.reset,
    channels := Vector.replicate 36 Channel.reset, groups := Vector.replicate 4 PanelGroup.reset }

/-- R120: a tally of zeros. -/
def Tally.zero : Tally := { counts := PerResult.all 0, strays := 0, wouldHaveFailed := false }

/-- R123: the zero context of a station clear and of either reset. -/
def ScoreContext.zero : ScoreContext :=
  { accumulator := 0, ovf := false, combo := 0, maxCombo := 0, rung := 0, life := 0, tally := Tally.zero }

/-- R117: the tables after a pin reset. -/
def Scoring.reset : Scoring :=
  { weights := ⟨100, 80, 50, 10, 0, 60, 0, -50⟩, deltas := ⟨8, 6, 2, -20, -60, 4, -40, -50⟩,
    lifeMax := 1000, lifeStart := 500 }

/-- R48: the intake record with nothing accepted. -/
def Intake.empty : Intake :=
  { lastTick := none, lastFrame := none, lastKind := none, lastClose := none, lastLanes := 0, chordCount := 0,
    tails := Vector.replicate 9 none, sealedTick := none, nextSeq := 0 }

/-- R37, R38, R63, R66, R89, R123, R124: a station after a pin reset. -/
def Station.reset : Station :=
  { state := .vacant, laneMask := 0x1FF#9, laneMap := .identity, noFail := false, reportLevel := .results,
    lookahead := 96000, queue := [], intake := Intake.empty, endAccepted := false, endPassed := false,
    starving := false, starved := false, counts := Vector.replicate 15 0, heldCloses := [], carriedIn := 0,
    holds := [], context := ScoreContext.zero, stack := [], pushPending := false }

/-- R65: the widths after a pin reset. -/
def Windows.reset : Windows := { w1 := 1080, w2 := 2160, w3 := 4320, w4 := 6480, wm := 2160, lg := 12000 }

/-- R144: no condition. -/
def AbortSet.empty : AbortSet := { now := false, atMeasure := false, onFail := false, atMeasureN := false }

/-- R150: the song record after either reset. -/
def Song.reset : Song :=
  { state := .stopped, armed := 0, startFrame := 0, latch := false, abortSet := AbortSet.empty, abortMeasure := 0,
    cause := .none, halt := .stopped 0, ends := [] }

/-- R154: a slot of cue memory after a pin reset. -/
def CueStep.reset : CueStep := { mode := .fixed, line := 0, level := 0, duration := 1 }

/-- R156: a channel's configuration after a pin reset. -/
def CueConfig.reset : CueConfig :=
  { first := 0, count := 1, mode := .single, endAction := .stop, retrigger := .restart, source := .none,
    stations := 0, lanes := 0, results := 0, k := 0 }

/-- R170: a channel after a pin reset. -/
def CueChannel.reset : CueChannel :=
  { config := CueConfig.reset, state := .off, pointer := 0, waiting := [], overrun := false, lastLine := none,
    serial := 0 }

/-- R170: the cue engine after a pin reset. -/
def CueEngine.reset : CueEngine :=
  { lines := Vector.replicate 48 { base := 0, current := 0, owner := none },
    memory := Vector.replicate 256 CueStep.reset, channels := Vector.replicate 8 CueChannel.reset }

/-- R186: the link port after a pin reset with the straps of the given rate. RXD is taken as high, also where it was low
when RESET was released; the spec is silent, and this is a DESIGN CHOICE, unsafe (log 38; log 16 at power-on). -/
def LinkPort.reset (rate : LinkRate) : LinkPort :=
  { rate := rate, rxd := .high, framer := .hunt, current := [], gap := .stopped, ended := [], slot := none, tx := none,
    reports := [], loss := 0, mask := 0x03FFEF#24, resetDue := false, held := [] }

/-- The part right after a pin reset. RATE1:0 is an input; the value here, 00, is a DESIGN CHOICE (log 10), as are
reference time 0 (log 11) and the free-value fields (log 6). No hand-off is being taken (log 33). -/
def State.reset : State :=
  { pending := [], refTime := 0, clock := SongClock.reset, scanner := Scanner.reset,
    stations := Vector.replicate 4 Station.reset, windows := Windows.reset, scoring := Scoring.reset,
    ladder := [{ threshold := 0, multiplier := 16 }], song := Song.reset, cue := CueEngine.reset,
    link := LinkPort.reset .r115200, outbox := none, choices := [], choiceCount := 0 }

end Sys2Proof.Machine
end

