-- ==== Sys2Proof/Machine/Ops.lean ====
section
/-! DEFINITION. The named operations every block shares: reading and updating the station, channel and cue records, song
time and reference time, deciding an order that the spec leaves open, offering a report to the report queue (R180), and
collecting what a block posts while it takes a hand-off. -/

namespace Sys2Proof.Machine

/-! ### Units of reference time (chapter 00, section 2: CLKIN is 16 MHz) -/

/-- CLKIN cycles in a microsecond. -/
def cyclesPerUs : Nat := 16

/-- CLKIN cycles in a millisecond. -/
def cyclesPerMs : Nat := 16000

/-- Reference time moves to a moment, unless it is past it already (log 3). -/
def State.advanceTo (t : Nat) (s : State) : State := { s with refTime := max s.refTime t }

/-! ### Ranges -/

/-- The greatest unsigned 32-bit value. -/
def maxWord : Nat := 4294967295

/-- The signed 32-bit range of song time and frames (chapter 00, section 2). -/
def inFrameRange (f : Int) : Bool := decide (-2147483648 ≤ f ∧ f ≤ 2147483647)

/-- A number clamped to the signed 32-bit range (R55). -/
def clampFrame (f : Int) : Int := max (-2147483648) (min 2147483647 f)

/-! ### Records -/

/-- Song time as the exact number that rules compare with frames. -/
def State.now (s : State) : Int := s.clock.songTime.toInt

/-- The posts of the hand-off being taken replaced; none where no hand-off is being taken (log 33). -/
def State.withOutbox (o : Option (List Post)) (s : State) : State := { s with outbox := o }

/-- The record of station k. -/
def State.station (s : State) (k : StationId) : Station := s.stations[k]

/-- Station k's record changed by f. -/
def State.mapStation (k : StationId) (f : Station → Station) (s : State) : State :=
  { s with stations := s.stations.set k (f s.stations[k]) }

/-- The song record changed by f. -/
def State.mapSong (f : Song → Song) (s : State) : State := { s with song := f s.song }

/-- The song clock changed by f. -/
def State.mapClock (f : SongClock → SongClock) (s : State) : State := { s with clock := f s.clock }

/-- The scanner changed by f. -/
def State.mapScanner (f : Scanner → Scanner) (s : State) : State := { s with scanner := f s.scanner }

/-- The link port changed by f. -/
def State.mapLink (f : LinkPort → LinkPort) (s : State) : State := { s with link := f s.link }

/-- Whether station k is PLAYING. -/
def State.playing (s : State) (k : StationId) : Bool := decide ((s.station k).state = .playing)

/-- The stations in ascending order. -/
def allStations : List StationId := [0, 1, 2, 3]

/-- The lanes in ascending order. -/
def allLanes : List LaneId := [0, 1, 2, 3, 4, 5, 6, 7, 8]

/-- The cue channels in ascending order. -/
def allCueChannels : List ChannelId := [0, 1, 2, 3, 4, 5, 6, 7]

/-- A set of lanes by a test. -/
def laneSetOf (f : LaneId → Bool) : LaneSet :=
  allLanes.foldl (fun acc l => if f l then acc ||| (1#9 <<< l.val) else acc) 0

/-- Membership in a set of lanes. -/
def LaneSet.has (m : LaneSet) (l : LaneId) : Bool := m.getLsbD l.val

/-- The set of one lane. -/
def LaneSet.single (l : LaneId) : LaneSet := 1#9 <<< l.val

/-- A set of lanes without one lane. -/
def LaneSet.without (m : LaneSet) (l : LaneId) : LaneSet := m &&& ~~~(1#9 <<< l.val)

/-- Membership in a set of stations. -/
def StationSet.has (m : StationSet) (k : StationId) : Bool := m.getLsbD k.val

/-- Panel channel of a station's lane: station times 9 plus lane (chapter 00, section 1.1). -/
def panelOf (k : StationId) (l : LaneId) : PanelId := ⟨k.val * 9 + l.val, by omega⟩

/-- The contact state of a station's lane, which the engine can see at any moment (R26). -/
def State.contactOf (s : State) (k : StationId) (l : LaneId) : Contact := (s.scanner.channels[panelOf k l]).contact

/-- R26: the lane's panel is DOWN; a panel in RELEASING answers as DOWN. -/
def Contact.isDown : Contact → Bool
  | .down | .releasing => true
  | .up | .pressing | .stuck | .fault => false

/-- R26: the lane's panel answers as DOWN. -/
def State.laneDown (s : State) (k : StationId) (l : LaneId) : Bool := (s.contactOf k l).isDown

/-- R26: the lane is PRESSING. -/
def State.lanePressing (s : State) (k : StationId) (l : LaneId) : Bool := decide (s.contactOf k l = .pressing)

end Sys2Proof.Machine

namespace Sys2Proof

/-! ### Values by result kind -/

/-- The value for one result kind. -/
def PerResult.get {α : Type} (p : PerResult α) : Machine.ResultKind → α
  | .exact => p.exact
  | .close => p.close
  | .fair => p.fair
  | .rough => p.rough
  | .miss => p.miss
  | .holdOk => p.holdOk
  | .holdLost => p.holdLost
  | .mineHit => p.mineHit

/-- The value for one result kind replaced. -/
def PerResult.set {α : Type} (p : PerResult α) (k : Machine.ResultKind) (a : α) : PerResult α :=
  match k with
  | .exact => { p with exact := a }
  | .close => { p with close := a }
  | .fair => { p with fair := a }
  | .rough => { p with rough := a }
  | .miss => { p with miss := a }
  | .holdOk => { p with holdOk := a }
  | .holdLost => { p with holdLost := a }
  | .mineHit => { p with mineHit := a }

/-- Every value changed by f. -/
def PerResult.map {α β : Type} (f : α → β) (p : PerResult α) : PerResult β :=
  ⟨f p.exact, f p.close, f p.fair, f p.rough, f p.miss, f p.holdOk, f p.holdLost, f p.mineHit⟩

/-- Whether every value passes a test. -/
def PerResult.every {α : Type} (f : α → Bool) (p : PerResult α) : Bool :=
  f p.exact && f p.close && f p.fair && f p.rough && f p.miss && f p.holdOk && f p.holdLost && f p.mineHit

end Sys2Proof

namespace Sys2Proof.Machine

/-! ### Chart counts (R61) -/

/-- The place of a chart count in the order of 11.7. -/
def CountKind.index : CountKind → Fin 15
  | .stepsAccepted => 0
  | .minesAccepted => 1
  | .markersAccepted => 2
  | .exactNotes => 3
  | .closeNotes => 4
  | .fairNotes => 5
  | .roughNotes => 6
  | .missNotes => 7
  | .holdOk => 8
  | .holdLost => 9
  | .minesHit => 10
  | .minesAvoided => 11
  | .stepsDrained => 12
  | .minesDrained => 13
  | .lateRefusals => 14

/-- The chart counts of R61, all zero. -/
def zeroCounts : Vector Word 15 := Vector.replicate 15 0

/-- A chart count of station k rises by n. Past 2^32 - 1 the spec states no value: it is a free value (log 9). -/
def State.countUp (k : StationId) (c : CountKind) (n : Nat) (s : State) : State :=
  if ((s.station k).counts[c.index]).toNat + n ≤ maxWord then
    s.mapStation k fun st => { st with counts := st.counts.set c.index (st.counts[c.index] + BitVec.ofNat 32 n) }
  else
    let v := Config.chartCountPastMax s.choiceCount
    let s := s.mapStation k fun st => { st with counts := st.counts.set c.index v }
    { s with choiceCount := s.choiceCount + 1 }

/-! ### Open orders (log 6) -/

/-- Decides one of n outcomes that the spec leaves open: from State.choices while it holds numbers, else from the free
value Config.openChoice. -/
def State.choose (n : Nat) (s : State) : Nat × State :=
  match s.choices with
  | c :: cs => (c % n, { s with choices := cs })
  | [] => (Config.openChoice s.choiceCount % n, { s with choiceCount := s.choiceCount + 1 })

/-- An outcome of two drawn only where it matters. -/
def State.chooseIf (matters : Bool) (s : State) : Bool × State :=
  if matters then
    match s.choose 2 with
    | (0, s) => (false, s)
    | (_, s) => (true, s)
  else (false, s)

/-- A list in an order that the spec leaves open; a list of one member leaves nothing open. The first argument bounds the
length of the list. -/
def shuffle {α : Type} : Nat → List α → State → List α × State
  | n + 1, a :: b :: rest, s =>
    let (c, s) := s.choose (rest.length + 2)
    let (as, s) := shuffle n ((a :: b :: rest).eraseIdx c) s
    ((a :: b :: rest).getD c a :: as, s)
  | _, as, s => (as, s)

/-- Runs f on every member of a list once, in any order. -/
def inAnyOrder {α : Type} (f : α → State → State) (as : List α) (s : State) : State :=
  let (as, s) := shuffle as.length as s
  as.foldl (fun s a => f a s) s

/-- The streams that still hold something. -/
def liveStreams {α : Type} (ss : List (List α)) : List (List α) := ss.filter fun l => !l.isEmpty

/-- Several streams as one list: each stream in its own order, the streams interleaved in an order that the spec leaves
open. The first argument bounds how many members there are. -/
def weave {α : Type} : Nat → List (List α) → State → List α × State
  | 0, _, s => ([], s)
  | n + 1, ss, s =>
    match liveStreams ss with
    | [] => ([], s)
    | [l] => (l, s)
    | l :: more =>
      let (c, s) := s.choose (more.length + 1)
      let (as, s) := weave n ((l :: more).modify c List.tail) s
      (((l :: more).getD c l).take 1 ++ as, s)

/-- Runs f on every member of several streams once, the streams interleaved in any order. -/
def interleaveAll {α : Type} (f : α → State → State) (ss : List (List α)) (s : State) : State :=
  let (as, s) := weave ss.flatten.length ss s
  as.foldl (fun s a => f a s) s

/-! ### The report queue (R180) -/

/-- 11.3: the code of a notice kind, which is also its bit in the notice mask. -/
def Notice.code : Notice → Nat
  | .songStarted _ => 0
  | .songFinished _ _ => 1
  | .clockLost => 2
  | .clockBack _ => 3
  | .measure _ => 4
  | .starving _ _ => 5
  | .starved _ => 6
  | .cleared _ _ => 7
  | .failed _ _ => 8
  | .panelStuck _ _ _ => 9
  | .panelFault _ _ _ _ => 10
  | .panelOk _ _ _ _ => 11
  | .calibrated _ _ _ _ => 12
  | .checkpointTaken _ _ _ _ => 13
  | .checkpointCancelled _ => 14
  | .scoreOvf _ _ => 15
  | .cueDone _ _ => 16
  | .cueOverrun _ => 17

/-- R180: RESULT reports and MEASURE notices are of the result class; every other notice is of the notice class. -/
def Report.resultClass : Report → Bool
  | .result _ => true
  | .notice _ (.measure _) => true
  | .notice _ _ => false

/-- R180: a NOTICE whose kind is disabled in the notice mask; RESULT reports have no enable. -/
def Report.masked (mask : BitVec 24) : Report → Bool
  | .result _ => false
  | .notice _ n => !mask.getLsbD n.code

/-- R180: the free slots of the report queue. -/
def LinkPort.freeSlots (l : LinkPort) : Nat := 64 - l.reports.length

/-- R180: room for a record of its class, 9 free slots or 1. -/
def LinkPort.hasRoom (l : LinkPort) (r : Report) : Bool :=
  if r.resultClass then decide (9 ≤ l.freeSlots) else decide (1 ≤ l.freeSlots)

/-- R180: a record that the mask lets through is appended, or turned away and counted; the count stops at 65,535. -/
def LinkPort.enqueue (r : Report) (l : LinkPort) : LinkPort :=
  if l.hasRoom r then { l with reports := l.reports ++ [r] } else { l with loss := min 65535 (l.loss + 1) }

/-- R177: a link frame is due to be taken: the slot is empty and a frame has ended. -/
def LinkPort.frameDue (l : LinkPort) : Bool := l.slot.isNone && !l.ended.isEmpty

/-- The transmitter is free to choose: idle, with no reset event due (R185) and no frame due to be taken (log 4). -/
def LinkPort.txFree (l : LinkPort) : Bool := l.tx.isNone && !l.resetDue && !l.frameDue

/-- R179, orders 2 to 4: a LOST report (R181), the oldest record, or nothing. LOST goes ahead of every queued record, as
R179 orders and against R181's last clause (log 41). -/
def LinkPort.beginReport (l : LinkPort) : LinkPort :=
  if 0 < l.loss then { l with tx := some (.lost l.loss), loss := 0 }
  else
    match l.reports with
    | r :: rest => { l with tx := some (.report r), reports := rest }
    | [] => l

/-- R179: the transmitter's choice of the next link frame. -/
def LinkPort.beginNext (l : LinkPort) : LinkPort :=
  match l.slot with
  | some r => { l with tx := some (.reply r) }
  | none => l.beginReport

/-- R179: the transmitter chooses when it is free. -/
def LinkPort.settle (l : LinkPort) : LinkPort := if l.txFree then l.beginNext else l

/-- R179: the transmitter chooses, if it is free, at the end of the command. -/
def State.settle (s : State) : State := s.mapLink LinkPort.settle

/-- R180: the link port takes the offer of a report. Where it would find no room although the transmitter is free to
begin a record, the taking and the offer fall together, and either may come first. -/
def State.takeOffer (r : Report) (s : State) : State :=
  if r.masked s.link.mask then s
  else if !s.link.hasRoom r && s.link.txFree && s.link.slot.isNone then
    match s.choose 2 with
    | (0, s) => s.mapLink (LinkPort.enqueue r)
    | (_, s) => s.mapLink fun l => l.beginReport.enqueue r
  else s.mapLink (LinkPort.enqueue r)

/-- A report is offered: the link port takes the offer, or it is posted while a hand-off is taken (log 33). -/
def State.offer (r : Report) (s : State) : State :=
  match s.outbox with
  | some ps => s.withOutbox (some (ps ++ [.report r]))
  | none => s.takeOffer r

/-- A notice with the song time at which it is offered (R35, R149). -/
def State.noticeOf (s : State) (n : Notice) : Report := .notice s.now n

/-- A notice offered now. -/
def State.notify (n : Notice) (s : State) : State := s.offer (s.noticeOf n)

/-- Several streams of reports, each in its order, offered in any interleaving. -/
def State.offerStreams (ss : List (List Report)) (s : State) : State := interleaveAll State.offer ss s

/-- Reports offered in any order. -/
def State.offerAny (rs : List Report) (s : State) : State := inAnyOrder State.offer rs s

/-- Reports of one transition whose order against the reports of another block's taking of it is open: they are offered
now, or go on their way and are offered when the hand-offs of the command are taken (R129, R146, log 6). -/
def State.offerNowOrLater (rs : List Report) (s : State) : State :=
  match rs with
  | [] => s
  | _ =>
    match s.choose 2 with
    | (0, s) => s.offerAny rs
    | (_, s) => s.mapLink fun l => { l with held := l.held ++ rs }

/-! ### Posts (log 33) -/

/-- What f posts, and the state that it leaves; nothing of it has reached the report queue or a cue channel. -/
def State.collect (f : State → State) (s : State) : List Post × State :=
  let t := f (s.withOutbox (some []))
  (t.outbox.getD [], t.withOutbox s.outbox)

/-- A post to the report queue. -/
def Post.isReport : Post → Bool
  | .report _ => true
  | .trigger _ _ => false

/-- A post to a cue channel. -/
def Post.isFor (c : ChannelId) : Post → Bool
  | .report _ => false
  | .trigger _ d => decide (d = c)

/-- The posts of one hand-off to the cue channels, a stream for each. -/
def triggerStreams (ps : List Post) : List (List Post) := allCueChannels.map fun c => ps.filter (Post.isFor c)

/-- The posts of one hand-off by where they go: its reports in the order of offering, and its triggers to each channel in
the order of raising. -/
def postStreams (ps : List Post) : List (List Post) := ps.filter Post.isReport :: triggerStreams ps

/-- Hand-offs taken one after another, each whole; their posts are still to be delivered. -/
def State.collectAll {α : Type} (f : α → State → State) : List α → State → List (List Post) × State
  | [], s => ([], s)
  | a :: rest, s =>
    let (ps, s) := s.collect (f a)
    let (more, s) := State.collectAll f rest s
    (postStreams ps ++ more, s)

end Sys2Proof.Machine
end

