-- ==== Sys2Proof/Machine/Operands.lean ====
section
/-! DEFINITION. The operand forms of the requests: how a received field names a station, a lane, a channel, a line, a set
or an enumerated value (11.3, R188), and the codes under which the part sends such values back. A code that no table
lists reads as none, "not one of its values". -/

namespace Sys2Proof.Machine

/-- A number below n as an index, or none. -/
def finOf (n : Nat) (v : Nat) : Option (Fin n) := if h : v < n then some ⟨v, h⟩ else none

/-- A station field: 0 to 3. -/
def stationOf (b : Byte) : Option StationId := finOf 4 b.toNat

/-- A lane field: 0 to 8. -/
def laneOf (b : Byte) : Option LaneId := finOf 9 b.toNat

/-- A cue channel field: 0 to 7. -/
def channelOf (b : Byte) : Option ChannelId := finOf 8 b.toNat

/-- An output line field: 0 to 47. -/
def lineOf (b : Byte) : Option LineId := finOf 48 b.toNat

/-- R188: a lane mask is the set its member bits name; bits beyond them are ignored. -/
def laneMaskOf (h : Half) : LaneSet := h.extractLsb' 0 9

/-- R188: the station mask of CUE_CHANNEL_SET; bits beyond its members are ignored. -/
def stationMaskOf (b : Byte) : StationSet := b.extractLsb' 0 4

/-- R188: a mask with a bit beyond bit 3 names a member that does not exist (SONG_ARM, SONG_ABORT). -/
def namesBeyondFour (b : Byte) : Bool := decide (b.extractLsb' 4 4 ≠ 0)

/-- R188: a notice mask with a bit of 18 to 23 set names a kind that does not exist. -/
def namesUnknownNotice (m : BitVec 24) : Bool := decide (m.extractLsb' 18 6 ≠ 0)

/-- A condition set (11.3). -/
def abortSetOf (b : Byte) : AbortSet :=
  { now := b.getLsbD 0, atMeasure := b.getLsbD 1, onFail := b.getLsbD 2, atMeasureN := b.getLsbD 3 }

/-- A note kind (11.3). -/
def noteKindOf (b : Byte) : Option NoteKind :=
  match b.toNat with
  | 0 => some .tap
  | 1 => some .hold
  | 2 => some .mine
  | 3 => some .cueMark
  | 4 => some .endMark
  | _ => none

/-- A lane map (11.3). -/
def laneMapOf (b : Byte) : Option LaneMap :=
  match b.toNat with
  | 0 => some .identity
  | 1 => some .rot90
  | 2 => some .rot180
  | 3 => some .rot270
  | 4 => some .mirrorLr
  | 5 => some .mirrorFb
  | 6 => some .mirrorDiag
  | 7 => some .mirrorAnti
  | _ => none

/-- A no-fail byte: 0 or 1 (R38). -/
def flagOf (b : Byte) : Option Bool :=
  match b.toNat with
  | 0 => some false
  | 1 => some true
  | _ => none

/-- A report level (11.3). -/
def reportLevelOf (b : Byte) : Option ReportLevel :=
  match b.toNat with
  | 0 => some .results
  | 1 => some .silent
  | _ => none

/-- R40: the two chart open modes. -/
inductive OpenMode where
  | fresh
  | carry
  deriving DecidableEq, Repr

/-- A chart open mode (11.3). -/
def openModeOf (b : Byte) : Option OpenMode :=
  match b.toNat with
  | 0 => some .fresh
  | 1 => some .carry
  | _ => none

/-- A cue step's target mode (11.3). -/
def targetModeOf (b : Byte) : Option TargetMode :=
  match b.toNat with
  | 0 => some .fixed
  | 1 => some .triggerLane
  | 2 => some .advance
  | _ => none

/-- A channel mode (11.3). -/
def cueModeOf (b : Byte) : Option CueMode :=
  match b.toNat with
  | 0 => some .single
  | 1 => some .run
  | _ => none

/-- An end action (11.3). -/
def endActionOf (b : Byte) : Option EndAction :=
  match b.toNat with
  | 0 => some .stop
  | 1 => some .loop
  | _ => none

/-- A retrigger policy (11.3). -/
def retriggerOf (b : Byte) : Option Retrigger :=
  match b.toNat with
  | 0 => some .restart
  | 1 => some .ignore
  | _ => none

/-- A trigger source (11.3). -/
def triggerSourceOf (b : Byte) : Option TriggerSource :=
  match b.toNat with
  | 0 => some .none
  | 1 => some .linkFire
  | 2 => some .measure
  | 3 => some .result
  | 4 => some .stationEnd
  | 5 => some .songStart
  | 6 => some .chartMark
  | 7 => some .channelStep
  | 8 => some .channelDone
  | _ => none

/-! ### Codes sent by the part (11.3) -/

/-- The result codes of replies. -/
inductive Code where
  | ok
  | pending
  | partialTaken
  | reject
  | badLength
  | badValue
  | state
  | busy
  | full
  | ended
  | lane
  | order
  | duplicate
  | overlap
  | chordLimit
  | chordClosed
  | late
  | noTempo
  | notRunning
  | stackFull
  | stackEmpty
  deriving DecidableEq, Repr

def Code.byte : Code → Byte
  | .ok => 0x00#8
  | .pending => 0x01#8
  | .partialTaken => 0x02#8
  | .reject => 0x03#8
  | .badLength => 0x04#8
  | .badValue => 0x05#8
  | .state => 0x06#8
  | .busy => 0x07#8
  | .full => 0x08#8
  | .ended => 0x09#8
  | .lane => 0x0A#8
  | .order => 0x0B#8
  | .duplicate => 0x0C#8
  | .overlap => 0x0D#8
  | .chordLimit => 0x0E#8
  | .chordClosed => 0x0F#8
  | .late => 0x10#8
  | .noTempo => 0x11#8
  | .notRunning => 0x12#8
  | .stackFull => 0x13#8
  | .stackEmpty => 0x14#8

def ResultKind.code : ResultKind → Nat
  | .exact => 0
  | .close => 1
  | .fair => 2
  | .rough => 3
  | .miss => 4
  | .holdOk => 5
  | .holdLost => 6
  | .mineHit => 7

def StationState.code : StationState → Nat
  | .vacant => 0
  | .loaded => 1
  | .playing => 2
  | .cleared => 3
  | .failed => 4
  | .aborted => 5

def SongState.code : SongState → Nat
  | .stopped => 0
  | .armed => 1
  | .running => 2
  | .halted => 3
  | .finished => 4

def Contact.code : Contact → Nat
  | .up => 0
  | .pressing => 1
  | .down => 2
  | .releasing => 3
  | .stuck => 4
  | .fault => 5

def LaneMap.code : LaneMap → Nat
  | .identity => 0
  | .rot90 => 1
  | .rot180 => 2
  | .rot270 => 3
  | .mirrorLr => 4
  | .mirrorFb => 5
  | .mirrorDiag => 6
  | .mirrorAnti => 7

def FinishCause.code : FinishCause → Nat
  | .none => 0
  | .complete => 1
  | .aborted => 2
  | .clock => 3

def CueMode.code : CueMode → Nat
  | .single => 0
  | .run => 1

def EndAction.code : EndAction → Nat
  | .stop => 0
  | .loop => 1

def TriggerSource.code : TriggerSource → Nat
  | .none => 0
  | .linkFire => 1
  | .measure => 2
  | .result => 3
  | .stationEnd => 4
  | .songStart => 5
  | .chartMark => 6
  | .channelStep => 7
  | .channelDone => 8

def ChannelState.code : ChannelState → Nat
  | .off => 0
  | .armed => 1
  | .stepping _ => 2
  | .done => 3

def Watch.code : Watch → Nat
  | .absent => 0
  | .present => 1

def Presence.code : Presence → Nat
  | .absent => 0
  | .present => 1

def Bound.code : Bound → Nat
  | .high => 0
  | .low => 1

def PushPoint.code : PushPoint → Nat
  | .quiet => 0
  | .ended .cleared => 1
  | .ended .failed => 2
  | .ended .aborted => 3

/-- A condition set as sent. -/
def AbortSet.byte (a : AbortSet) : Byte :=
  BitVec.ofNat 8 (a.now.toNat + 2 * a.atMeasure.toNat + 4 * a.onFail.toNat + 8 * a.atMeasureN.toNat)

/-- R171: the link rate of the straps RATE1:0. -/
def LinkRate.ofStraps (straps : BitVec 2) : LinkRate :=
  match straps.toNat with
  | 0 => .r115200
  | 1 => .r460800
  | 2 => .r921600
  | _ => .r2000000

/-- R171: bits per second. -/
def LinkRate.bitsPerSecond : LinkRate → Nat
  | .r115200 => 115200
  | .r460800 => 460800
  | .r921600 => 921600
  | .r2000000 => 2000000

/-- R39: the mapped lane of a chart lane. -/
def LaneMap.apply : LaneMap → LaneId → LaneId
  | .identity, l => l
  | .rot90, l => #v[2, 5, 8, 1, 4, 7, 0, 3, 6][l]
  | .rot180, l => #v[8, 7, 6, 5, 4, 3, 2, 1, 0][l]
  | .rot270, l => #v[6, 3, 0, 7, 4, 1, 8, 5, 2][l]
  | .mirrorLr, l => #v[2, 1, 0, 5, 4, 3, 8, 7, 6][l]
  | .mirrorFb, l => #v[6, 7, 8, 3, 4, 5, 0, 1, 2][l]
  | .mirrorDiag, l => #v[0, 3, 6, 1, 4, 7, 2, 5, 8][l]
  | .mirrorAnti, l => #v[8, 5, 2, 7, 4, 1, 6, 3, 0][l]

/-! ### The sensor bus (R18) -/

/-- The read command byte that the scanner sends on MOSI. -/
def sensorReadCommand : Byte := 0x3C#8

end Sys2Proof.Machine

namespace Sys2Proof

/-- The transaction of device d in a round. -/
def RoundData.of (r : RoundData) (d : DeviceId) : Transaction :=
  match d with
  | 0 => r.d0
  | 1 => r.d1
  | 2 => r.d2
  | 3 => r.d3
  | 4 => r.d4

/-- A transaction is answered when the acknowledgement byte is 0x50 plus the device number. -/
def Transaction.answered (d : DeviceId) (t : Transaction) : Bool := decide (t.ack.toNat = 0x50 + d.val)

/-- The 10-bit reading of an input, 0 to 7: inputs in order, most significant bit first, packed without gaps. -/
def Transaction.reading (t : Transaction) (input : Nat) : Nat := (t.data.extractLsb' (70 - 10 * input) 10).toNat

end Sys2Proof

namespace Sys2Proof.Machine

/-- Panel channel c is wired to device c div 8. -/
def deviceOf (c : PanelId) : DeviceId := ⟨c.val / 8, by omega⟩

/-- Panel channel c is wired to input c mod 8. -/
def inputOf (c : PanelId) : Nat := c.val % 8

/-- The station of a panel channel. -/
def stationOfPanel (c : PanelId) : StationId := ⟨c.val / 9, by omega⟩

/-- The lane of a panel channel. -/
def laneOfPanel (c : PanelId) : LaneId := ⟨c.val % 9, by omega⟩

end Sys2Proof.Machine
end

