-- ==== Sys2Proof/Machine/Flags.lean ====
section
/-! DEFINITION. The flags and output signals the part computes from its state: EXT and the displayed score of a context,
the armed flag, the flag bytes of the replies, and the levels of CTS, ATN and the output lines. -/

namespace Sys2Proof.Machine

/-- R115: EXT is set whenever the accumulator lies outside the signed 32-bit range. -/
def ScoreContext.ext (c : ScoreContext) : Bool := !inFrameRange c.accumulator

/-- R116: the accumulator divided by 16 and rounded down, or 0 when it is negative. -/
def displayedScore (accumulator : Int) : Nat := if accumulator < 0 then 0 else (accumulator / 16).toNat

/-- R116: the displayed score of a context. -/
def ScoreContext.displayed (c : ScoreContext) : Nat := displayedScore c.accumulator

/-- R43: the song is active, ARMED, RUNNING or HALTED. -/
def SongState.active : SongState → Bool
  | .armed | .running | .halted => true
  | .stopped | .finished => false

/-- R43: the armed flag of a station. -/
def State.armedFlag (s : State) (k : StationId) : Bool := s.song.state.active && StationSet.has s.song.armed k

/-- R7, R8: the note queue of some station holds an entry. -/
def State.anyQueued (s : State) : Bool := allStations.any fun k => !(s.station k).queue.isEmpty

/-- A flag byte, bit 0 first. Where the spec gives a flag a byte of its own and names no bit, the model sends it as bit 0
(log 37). -/
def flagByte (bits : List Bool) : Byte :=
  BitVec.ofNat 8 (bits.foldr (fun b acc => b.toNat + 2 * acc) 0)

/-- R176: bytes held in the inbound buffer. -/
def LinkPort.occupancy (l : LinkPort) : Nat := (l.ended.map fun f => f.bytes.length).sum + l.current.length

/-- R176: CTS is asserted while 245 or more bytes are free. -/
def LinkPort.cts (l : LinkPort) : Bool := decide (l.occupancy + 245 ≤ 512)

/-- R182: ATN is asserted exactly when the report queue is non-empty or the loss count is above zero. -/
def LinkPort.atn (l : LinkPort) : Bool := !l.reports.isEmpty || decide (0 < l.loss)

/-- R151: the duty step of an output line's pin is the line's current level. -/
def State.lineDuty (s : State) (n : LineId) : Nat := (s.cue.lines[n]).current.toNat

/-- R143, R148: the halt timer in whole milliseconds, 0 to 500. -/
def HaltTimer.ms (now : Nat) : HaltTimer → Nat
  | .stopped ms => ms
  | .running since => min 500 ((now - since) / cyclesPerMs)

/-- R169: the whole milliseconds remaining to a running step's expiry. -/
def RunningStep.msRemaining (now : Nat) (r : RunningStep) : Nat := (r.expiry - now) / cyclesPerMs

end Sys2Proof.Machine
end

