-- ==== Sys2Proof/Machine/Layout.lean ====
section
/-! DEFINITION. The bytes of what the part sends: reports (11.9), replies (11.5, 11.6), context records (11.8) and the link
frame of whatever the transmitter is sending (11.1). -/

namespace Sys2Proof.Machine

/-! ### Fields -/

/-- A one-byte number. -/
def num8 (n : Nat) : List Byte := [BitVec.ofNat 8 n]

/-- A two-byte number. -/
def num16 (n : Nat) : List Byte := be16 (BitVec.ofNat 16 n)

/-- A four-byte number. -/
def num32 (n : Nat) : List Byte := be32 (BitVec.ofNat 32 n)

/-- A four-byte signed number. -/
def int32 (i : Int) : List Byte := be32 (BitVec.ofInt 32 i)

/-- A two-byte lane mask. -/
def lanes16 (m : LaneSet) : List Byte := be16 (m.zeroExtend 16)

/-- A one-byte station mask. -/
def stations8 (m : StationSet) : List Byte := [m.zeroExtend 8]

/-- A one-byte index, or 0xFF for none (11.6). -/
def orNone : Option Nat → List Byte
  | some n => num8 n
  | none => [0xFF#8]

/-! ### Reports (11.9) -/

/-- The payload of a RESULT report, 27 bytes. -/
def ResultReport.bytes (r : ResultReport) : List Byte :=
  num8 r.station.val ++ num8 r.kind.code ++ be16 r.noteId ++ num8 r.chartLane.val ++ lanes16 r.lanes ++
    [flagByte [r.offset.isSome]] ++ int32 (r.offset.getD 0) ++ int32 r.songTime ++ num32 r.comboAfter ++
    num32 r.displayedAfter ++ num16 r.lifeAfter ++ num8 r.rungAfter

/-- The station of a notice, where its kind has one. -/
def Notice.station : Notice → Option StationId
  | .starving k _ | .starved k | .cleared k _ | .failed k _ | .panelStuck k _ _ | .panelFault k _ _ _
  | .panelOk k _ _ _ | .calibrated k _ _ _ | .checkpointTaken k _ _ _ | .checkpointCancelled k
  | .scoreOvf k _ => some k
  | .songStarted _ | .songFinished _ _ | .clockLost | .clockBack _ | .measure _ | .cueDone _ _
  | .cueOverrun _ => none

/-- The station byte of a notice: 0xFF when the kind has none. -/
def Notice.stationByte (n : Notice) : Byte :=
  match n.station with
  | some k => BitVec.ofNat 8 k.val
  | none => 0xFF#8

/-- The fields of a notice after its song time. -/
def Notice.fields : Notice → List Byte
  | .songStarted armed => stations8 armed
  | .songFinished cause m => num8 cause.code ++ be16 m
  | .clockLost => []
  | .clockBack ms => num16 ms
  | .measure number => be16 number
  | .starving _ lookahead => int32 lookahead
  | .starved _ => []
  | .cleared _ displayed => num32 displayed
  | .failed _ displayed => num32 displayed
  | .panelStuck _ lane stamp => num8 lane.val ++ int32 stamp
  | .panelFault _ device lanes stamp => num8 device.val ++ lanes16 lanes ++ int32 stamp
  | .panelOk _ device lanes stamp => num8 device.val ++ lanes16 lanes ++ int32 stamp
  | .calibrated _ unsettled cancelled stamp => lanes16 unsettled ++ [flagByte [cancelled]] ++ int32 stamp
  | .checkpointTaken _ depth displayed point => num8 depth ++ num32 displayed ++ num8 point.code
  | .checkpointCancelled _ => []
  | .scoreOvf _ bound => num8 bound.code
  | .cueDone channel endAction => num8 channel.val ++ num8 endAction.code
  | .cueOverrun channel => num8 channel.val

/-- The KIND byte of a report. -/
def Report.kind : Report → Byte
  | .result _ => 0xC0#8
  | .notice _ _ => 0xC1#8

/-- The payload of a report. -/
def Report.payload : Report → List Byte
  | .result r => r.bytes
  | .notice songTime n => num8 n.code ++ [n.stationByte] ++ int32 songTime ++ n.fields

/-- The link frame on TXD (R171, R173, 11.1). -/
def TxFrame.bytes : TxFrame → List Byte
  | .reply r => frameBytes r.kind r.payload
  | .lost count => frameBytes 0xC2#8 (num16 count)
  | .report r => frameBytes r.kind r.payload

/-! ### Replies (R189, 11.5, 11.6) -/

/-- The reply to the request of a kind code: the code plus 0x80, the result code, and fields. -/
def replyTo (kind : Byte) (code : Code) (fields : List Byte) : Reply :=
  { kind := kind + 0x80#8, payload := code.byte :: fields, thenReset := false }

/-- The reply to a request. -/
def replyFor (i : Instr) (code : Code) (fields : List Byte) : Reply := replyTo (i.kind.getD 0) code fields

/-- R177, R189: the reasons of a REJECT. -/
inductive RejectReason where
  | badCheck
  | truncated
  | unknownKind
  deriving DecidableEq, Repr

def RejectReason.code : RejectReason → Nat
  | .badCheck => 1
  | .truncated => 2
  | .unknownKind => 3

/-- R189: a REJECT carries its reason, LEN as received, whether a KIND was stored, and KIND as received. -/
def rejectReply (reason : RejectReason) (len : Byte) (kind : Option Byte) : Reply :=
  { kind := 0xBF#8,
    payload := [Code.reject.byte] ++ num8 reason.code ++ [len, flagByte [kind.isSome], kind.getD 0],
    thenReset := false }

/-- 11.8: a context record, 53 bytes. -/
def ScoreContext.bytes (c : ScoreContext) : List Byte :=
  be40 (BitVec.ofInt 40 c.accumulator) ++ [flagByte [c.ovf, c.ext, c.tally.wouldHaveFailed]] ++ num32 c.combo ++
    num32 c.maxCombo ++ num8 c.rung ++ num16 c.life ++ c.tally.counts.toList.flatMap num32 ++ num32 c.tally.strays

/-- R184: what IDENTIFY returns. -/
def identityBytes : List Byte :=
  num16 0x5A04 ++ [0x41#8] ++ num8 4 ++ num8 9 ++ num8 192 ++ num8 4 ++ num16 256 ++ num8 8 ++ num8 48 ++ num8 64

/-- R148: the fields of SONG_STATUS. -/
def State.songStatusBytes (s : State) : List Byte :=
  num8 s.song.state.code ++ be32 s.clock.songTime ++ be16 s.clock.measure ++ stations8 s.song.armed ++
    [s.song.abortSet.byte] ++ be16 s.song.abortMeasure ++ num8 s.song.cause.code ++ num8 s.clock.watch.code ++
    num16 (s.song.halt.ms s.refTime) ++ int32 s.song.startFrame

/-- R62: an entry in an open window: TAP, HOLD or MINE in state OPEN or JUDGED. -/
def Entry.windowOpen (e : Entry) : Bool :=
  match e.state with
  | .opened | .judged _ _ => true
  | .queued | .holding => false

/-- R62: an entry in state HOLDING. -/
def Entry.isHolding (e : Entry) : Bool :=
  match e.state with
  | .holding => true
  | .queued | .opened | .judged _ _ => false

/-- R62, 11.7: the variant part of STATION_STATUS for the station's state. -/
def State.stationVariant (s : State) (k : StationId) : List Byte :=
  let st := s.station k
  match st.state with
  | .vacant => num8 st.stack.length ++ allLanes.flatMap fun l => num8 (s.contactOf k l).code
  | .loaded =>
    num8 st.queue.length ++ [flagByte [st.intake.lastTick.isSome]] ++ num32 (st.intake.lastTick.getD 0) ++
      num8 st.stack.length ++ num8 st.laneMap.code ++ lanes16 st.laneMask
  | .playing =>
    be32 s.clock.songTime ++ num8 st.queue.length ++ num8 (st.queue.countP Entry.windowOpen) ++
      num8 (st.queue.countP Entry.isHolding) ++ num32 st.context.combo ++ num16 st.context.life ++
      num32 st.context.displayed ++ num8 st.context.rung ++ [flagByte [st.context.ext, st.context.ovf]]
  | .cleared | .failed | .aborted =>
    st.counts.toList.flatMap be32 ++ num32 st.context.displayed ++ num32 st.context.maxCombo ++
      num16 st.context.life ++ [flagByte [st.context.ovf]]

/-- R62, 11.7: the common part of STATION_STATUS and its variant. -/
def State.stationStatusBytes (s : State) (k : StationId) : List Byte :=
  let st := s.station k
  num8 k.val ++ num8 st.state.code ++
    [flagByte [s.armedFlag k, st.endAccepted, st.endPassed, st.starving, st.starved, st.pushPending, st.noFail,
      (s.scanner.groups[k]).uncalibrated]] ++ s.stationVariant k

/-- R34: one lane of a PANEL_READ reply. -/
def Channel.bytes (c : Channel) : List Byte :=
  num8 c.contact.code ++ num16 c.reading ++ num16 c.level ++ num16 c.baseline ++ num16 c.p ++ num16 c.q ++
    num8 c.dp ++ num8 c.dr ++ num8 c.dwell ++ num8 c.stuckCount

/-- R18: the devices with a channel on station k, two for every station, lower number first. -/
def devicesOf (k : StationId) : List DeviceId := [deviceOf (panelOf k 0), deviceOf (panelOf k 8)]

/-- R34: one device of a PANEL_READ reply. -/
def State.deviceBytes (s : State) (d : DeviceId) : List Byte :=
  let r := s.scanner.devices[d]
  num8 d.val ++ num8 r.presence.code ++ num8 r.unanswered ++ num8 r.answered

/-- R34, 11.6: a PANEL_READ reply, 149 bytes. -/
def State.panelBytes (s : State) (k : StationId) : List Byte :=
  let g := s.scanner.groups[k]
  (allLanes.flatMap fun l => (s.scanner.channels[panelOf k l]).bytes) ++ [flagByte [g.uncalibrated, g.job.isSome]] ++
    num8 (g.job.elim 0 CalJob.rounds) ++ lanes16 g.lastUnsettled ++ (devicesOf k).flatMap s.deviceBytes ++
    num16 s.scanner.period

/-- R156: the slot of a step index: (first step + i) modulo 256. -/
def CueConfig.slot (c : CueConfig) (i : Nat) : SlotId := ⟨(c.first.val + i) % 256, Nat.mod_lt _ (by omega)⟩

/-- R157: the running step of a channel. -/
def CueChannel.running (c : CueChannel) : Option RunningStep :=
  match c.state with
  | .stepping r => some r
  | .off | .armed | .done => none

/-- R169, 11.6: one channel of a CUE_STATUS CHANNELS reply. -/
def State.cueChannelBytes (s : State) (c : ChannelId) : List Byte :=
  let ch := s.cue.channels[c]
  num8 ch.state.code ++ num8 ch.config.source.code ++ num8 ch.config.mode.code ++ num8 ch.config.endAction.code ++
    num8 ch.pointer ++ num8 (ch.config.slot ch.pointer).val ++ num8 ch.waiting.length ++ [flagByte [ch.overrun]] ++
    be16 ch.serial ++ orNone (ch.lastLine.map Fin.val) ++ orNone (ch.running.map fun r => r.line.val) ++
    num16 (ch.running.elim 0 fun r => r.msRemaining s.refTime)

/-- R169: one line of a CUE_STATUS LINES reply. -/
def Line.bytes (l : Line) : List Byte := [l.base, l.current] ++ orNone (l.owner.map fun o => o.channel.val)

/-- R169: the channel records, 112 bytes. -/
def State.cueChannelsBytes (s : State) : List Byte := allCueChannels.flatMap s.cueChannelBytes

/-- R169: the line records, 144 bytes. -/
def State.cueLinesBytes (s : State) : List Byte := s.cue.lines.toList.flatMap Line.bytes

end Sys2Proof.Machine
end

