-- ==== Sys2Proof/Machine/Clock.lean ====
section
/-! DEFINITION. The song clock (chapter 01): the tempo map and its checks, tick-to-frame conversion, measure pulses, and
the clock watch. -/

namespace Sys2Proof.Machine

/-! ### The tempo map -/

/-- R6: 48 times 65,536. -/
def tempoDivisor : Nat := 3145728

/-- R6, R10: the frames of a number of ticks in a BEAT segment; one floor of the exact product. -/
def framesOf (ticks fpbRaw : Nat) : Int := Int.ofNat (ticks * fpbRaw / tempoDivisor)

/-- R6: the start frame of the segment that follows seg at a start tick. -/
def Segment.nextStart (seg : Segment) (tick : Nat) : Int :=
  match seg.body with
  | .beat fpbRaw _ => seg.startFrame + framesOf (tick - seg.startTick) fpbRaw
  | .stop length => seg.startFrame + Int.ofNat length

/-- R9, check 1: the record's own values, or none. -/
def segmentBodyOf (r : SegmentRec) : Option SegmentBody :=
  match r.kind.toNat with
  | 0 =>
    if 65536 ≤ r.fpbRaw.toNat ∧ 1 ≤ r.beats.toNat ∧ r.beats.toNat ≤ 16 then
      some (.beat r.fpbRaw.toNat r.beats.toNat)
    else none
  | 1 =>
    if 1 ≤ r.stopLength.toNat ∧ r.stopLength.toNat ≤ 16777216 then some (.stop r.stopLength.toNat) else none
  | _ => none

/-- Whether a segment body is a BEAT. -/
def SegmentBody.isBeat : SegmentBody → Bool
  | .beat _ _ => true
  | .stop _ => false

/-- R9: one segment against the segment before it (none when the map is empty and it is the first): the segment with its
start frame, or the refusal. -/
def checkSegment (origin : Int) (before : Option Segment) (r : SegmentRec) : Except Code Segment :=
  match segmentBodyOf r with
  | none => .error .badValue
  | some body =>
    match before with
    | none =>
      if body.isBeat && decide (r.startTick.toNat = 0) then
        if inFrameRange origin then .ok { startTick := r.startTick.toNat, startFrame := origin, body := body }
        else .error .badValue
      else .error .badValue
    | some b =>
      let tick := r.startTick.toNat
      if tick < b.startTick then .error .order
      else if !b.body.isBeat && decide (b.startTick < tick) then .error .order
      else if decide (tick = b.startTick) && b.body.isBeat then .error .duplicate
      else if !inFrameRange (b.nextStart tick) then .error .badValue
      else .ok { startTick := tick, startFrame := b.nextStart tick, body := body }

/-- R8, R9: the segments of a request, each taken as if the ones before it were appended: the new map, or the refusal and
the index of the refused segment. -/
def appendSegments (origin : Int) : List Segment → List SegmentRec → Nat → Except (Code × Nat) (List Segment)
  | map, [], _ => .ok map
  | map, r :: rest, i =>
    match checkSegment origin map.getLast? r with
    | .error c => .error (c, i)
    | .ok seg => appendSegments origin (map ++ [seg]) rest (i + 1)

/-! ### Conversion (R10) -/

/-- R10: what a conversion returns. -/
inductive Conversion where
  | noMap
  | outOfRange
  | frame (f : Int)
  deriving DecidableEq, Repr

/-- R10: the governing segment: the first of the segments that start at the tick, or else the last that starts before. -/
def governing (map : List Segment) (tick : Nat) : Option Segment :=
  match map.find? fun seg => decide (seg.startTick = tick) with
  | some seg => some seg
  | none => (map.filter fun seg => decide (seg.startTick < tick)).getLast?

/-- R10: the frame of a tick in its governing segment. -/
def Segment.frameOf (seg : Segment) (tick : Nat) : Int :=
  match seg.body with
  | .beat fpbRaw _ => seg.startFrame + framesOf (tick - seg.startTick) fpbRaw
  | .stop _ => seg.startFrame

/-- R10: tick-to-frame conversion. -/
def convert (map : List Segment) (tick : Nat) : Conversion :=
  match governing map tick with
  | none => .noMap
  | some seg => if inFrameRange (seg.frameOf tick) then .frame (seg.frameOf tick) else .outOfRange

/-! ### Measure pulses (R12 to R14) -/

/-- R12: the first pulse of one segment whose frame is not less than f, if it has one: pulse j of a BEAT segment stands
48 times beats times j ticks after the segment's start, before the start tick of the next segment, and at a frame not
above 2^31 - 1. -/
def Segment.firstPulse (seg : Segment) (index : Nat) (next : Option Segment) (f : Int) : Option Pulse :=
  match seg.body with
  | .stop _ => none
  | .beat fpbRaw beats =>
    let measureTicks := 48 * beats
    let ahead := (f - seg.startFrame).toNat
    let j := (ahead * tempoDivisor + measureTicks * fpbRaw - 1) / (measureTicks * fpbRaw)
    let frame := seg.startFrame + framesOf (j * measureTicks) fpbRaw
    let inside := match next with
      | some n => decide (seg.startTick + j * measureTicks < n.startTick)
      | none => true
    if inside && decide (frame ≤ 2147483647) then some { segment := index, index := j, frame := frame } else none

/-- R12, R13: the first pulse of the map, in placing order, whose frame is not less than f. -/
def firstPulse : List Segment → Nat → Int → Option Pulse
  | [], _, _ => none
  | seg :: rest, i, f =>
    match seg.firstPulse i rest.head? f with
    | some p => some p
    | none => firstPulse rest (i + 1) f

/-- R14: the next pulse is due at the present song time. -/
def State.pulseDue (s : State) : Bool :=
  match s.clock.nextPulse with
  | some p => decide (p.frame = s.now)
  | none => false

/-- R14: the pulse fires: the measure number rises by 1, wrapping, and the next pulse moves past every pulse whose frame
is not greater than song time. -/
def State.firePulse (s : State) : State :=
  s.mapClock fun c =>
    { c with measure := c.measure + 1, nextPulse := firstPulse c.map 0 (c.songTime.toInt + 1) }

/-- R2, R13: at the start edge song time takes the start frame, the measure number becomes 0, and the next pulse is placed. -/
def State.startClock (s : State) : State :=
  s.mapClock fun c =>
    { c with songTime := BitVec.ofInt 32 s.song.startFrame, measure := 0,
             nextPulse := firstPulse c.map 0 s.song.startFrame }

/-- R1: a counted edge adds 1 to song time, wrapping from 2^31 - 1 to -2^31. -/
def State.countFrame (s : State) : State := s.mapClock fun c => { c with songTime := c.songTime + 1 }

/-- R3: an edge makes the watch PRESENT and restarts its timer. -/
def State.watchEdge (s : State) : State :=
  s.mapClock fun c => { c with watch := .present, watchTimer := some s.refTime }

/-- R3: the watch timer's interval, 2 ms. -/
def watchInterval : Nat := 2 * cyclesPerMs

/-- R3: the expiry makes the watch ABSENT and stops its timer. -/
def State.watchExpire (s : State) : State := s.mapClock fun c => { c with watch := .absent, watchTimer := none }

/-! ### The tempo requests, as the song clock takes them -/

/-- R7: TEMPO_CLEAR. -/
def takeTempoClear (origin : Word) (s : State) : State × Reply :=
  let i := Instr.tempoClear origin
  if s.song.state.active || s.anyQueued then (s, replyFor i .state [])
  else (s.mapClock fun c => { c with map := [], origin := origin.toInt }, replyFor i .ok [])

/-- R8: TEMPO_PUT, all or nothing. -/
def takeTempoPut (segments : List SegmentRec) (s : State) : State × Reply :=
  let i := Instr.tempoPut segments
  if s.song.state.active || s.anyQueued then (s, replyFor i .state [])
  else if 64 < s.clock.map.length + segments.length then (s, replyFor i .full [])
  else
    match appendSegments s.clock.origin s.clock.map segments 0 with
    | .error (c, index) => (s, replyFor i c (num8 index))
    | .ok map =>
      (s.mapClock fun c => { c with map := map },
        replyFor i .ok (num8 map.length ++ int32 (map.getLast?.elim 0 Segment.startFrame)))

end Sys2Proof.Machine
end

