-- ==== Sys2Proof/Machine/Cue.lean ====
section
/-! DEFINITION. The cue engine (chapter 09): output lines and their owners, cue steps, triggers and the channels that take
them, step expiries and chains, and the cue requests. -/

namespace Sys2Proof.Machine

/-! ### Lines and steps -/

/-- The cue engine changed by f. -/
def State.mapCue (f : CueEngine → CueEngine) (s : State) : State := { s with cue := f s.cue }

/-- Channel c's record changed by f. -/
def CueEngine.mapChannel (c : ChannelId) (f : CueChannel → CueChannel) (e : CueEngine) : CueEngine :=
  { e with channels := e.channels.set c (f e.channels[c]) }

/-- Line n's record changed by f. -/
def CueEngine.mapLine (n : LineId) (f : Line → Line) (e : CueEngine) : CueEngine :=
  { e with lines := e.lines.set n (f e.lines[n]) }

/-- R153: a line returns to its base level with no owner. -/
def Line.toBase (l : Line) : Line := { l with current := l.base, owner := none }

/-- R153: the end of a step of channel c releases its line where the step still owns it. -/
def CueEngine.releaseStep (c : ChannelId) (r : RunningStep) (e : CueEngine) : CueEngine :=
  if (e.lines[r.line]).owner = some { channel := c, serial := r.serial } then e.mapLine r.line Line.toBase else e

/-- R153: the running step of channel c, if there is one, ends and releases its line. -/
def CueEngine.releaseRunning (c : ChannelId) (e : CueEngine) : CueEngine :=
  match (e.channels[c]).running with
  | some r => e.releaseStep c r
  | none => e

/-- Chapter 00, section 3.4: the panel lamp of a station's lane. -/
def lampOf (k : StationId) (l : LaneId) : LineId := ⟨k.val * 9 + l.val, by omega⟩

/-- R162: the line after another, 0 after 47. -/
def nextLine (n : LineId) : LineId := ⟨(n.val + 1) % 48, Nat.mod_lt _ (by omega)⟩

/-- R162, step 2: the line that a step drives. -/
def CueChannel.resolve (ch : CueChannel) (step : CueStep) (record : TriggerRec) : LineId :=
  match step.mode with
  | .fixed => step.line
  | .triggerLane =>
    match record.station, record.lane with
    | some k, some l => lampOf k l
    | _, _ => step.line
  | .advance =>
    match ch.lastLine with
    | none => step.line
    | some n => if ch.pointer = 0 then step.line else nextLine n

/-- R162: the step at the pointer of channel c starts with a trigger record, at reference time `now`. -/
def CueEngine.startStep (now : Nat) (c : ChannelId) (record : TriggerRec) (e : CueEngine) : CueEngine :=
  let ch := e.channels[c]
  let step := e.memory[ch.config.slot ch.pointer]
  let line := ch.resolve step record
  let serial := ch.serial + 1
  let running : RunningStep :=
    { step := step, line := line, serial := serial, record := record, expiry := now + step.duration * cyclesPerMs }
  (e.mapLine line fun l => { l with current := step.level, owner := some { channel := c, serial := serial } }).mapChannel c
    fun ch => { ch with serial := serial, lastLine := some line, state := .stepping running }

/-! ### Triggers (R159 to R161) -/

/-- The lowest lane of a set. -/
def LaneSet.lowest (m : LaneSet) : Option LaneId := allLanes.find? fun l => LaneSet.has m l

/-- R159: the trigger record that a trigger carries. -/
def Trigger.record : Trigger → TriggerRec
  | .linkFire _ | .measure | .songStart | .chartMark _ => { station := none, lane := none }
  | .result k _ lanes => { station := some k, lane := LaneSet.lowest lanes }
  | .stationEnd k => { station := some k, lane := none }
  | .channelStep _ record | .channelDone _ record => record

/-- R159: whether a trigger is handed to channel c of a configuration. -/
def CueConfig.takes (cfg : CueConfig) (c : ChannelId) : Trigger → Bool
  | .linkFire channel => decide (cfg.source = .linkFire) && decide (channel = c)
  | .measure => decide (cfg.source = .measure)
  | .result k kind lanes =>
    decide (cfg.source = .result) && StationSet.has cfg.stations k && decide (lanes &&& cfg.lanes ≠ 0) &&
      cfg.results.getLsbD kind.code
  | .stationEnd k => decide (cfg.source = .stationEnd) && StationSet.has cfg.stations k
  | .songStart => decide (cfg.source = .songStart)
  | .chartMark channel => decide (cfg.source = .chartMark) && decide (channel = c)
  | .channelStep k _ => decide (cfg.source = .channelStep) && decide (cfg.k.toNat = k.val)
  | .channelDone k _ => decide (cfg.source = .channelDone) && decide (cfg.k.toNat = k.val)

/-- R159: the channels that a trigger is handed to. -/
def CueEngine.takers (e : CueEngine) (t : Trigger) : List ChannelId :=
  allCueChannels.filter fun c => (e.channels[c]).config.takes c t

/-- R160: a RESTART retrigger. -/
def CueEngine.restart (now : Nat) (c : ChannelId) (record : TriggerRec) (e : CueEngine) : CueEngine :=
  ((e.releaseRunning c).mapChannel c fun ch => { ch with pointer := 0 }).startStep now c record

/-- R160, R161: a trigger that finds a SINGLE channel STEPPING: it waits, or it is dropped with one CUE_OVERRUN for each run
of drops. -/
def CueEngine.enqueueTrigger (c : ChannelId) (record : TriggerRec) (e : CueEngine) : CueEngine × List Notice :=
  let ch := e.channels[c]
  if ch.waiting.length < 7 then (e.mapChannel c fun ch => { ch with waiting := ch.waiting ++ [record] }, [])
  else if ch.overrun then (e, [])
  else (e.mapChannel c fun ch => { ch with overrun := true }, [.cueOverrun c])

/-- R160: channel c takes a trigger with a record, at reference time `now`. -/
def CueEngine.takeTrigger (now : Nat) (c : ChannelId) (record : TriggerRec) (e : CueEngine) : CueEngine × List Notice :=
  let ch := e.channels[c]
  match ch.state with
  | .off | .done => (e, [])
  | .armed => (e.startStep now c record, [])
  | .stepping _ =>
    match ch.config.mode, ch.config.retrigger with
    | .single, _ => e.enqueueTrigger c record
    | .run, .restart => (e.restart now c record, [])
    | .run, .ignore => (e, [])

/-- A trigger record delivered to channels one after another. -/
def CueEngine.deliver (now : Nat) (record : TriggerRec) : List ChannelId → CueEngine → CueEngine × List Notice
  | [], e => (e, [])
  | c :: rest, e =>
    let (e, notices) := e.takeTrigger now c record
    let (e, more) := CueEngine.deliver now record rest e
    (e, notices ++ more)

/-- R159: every channel that a trigger is handed to takes it, in any order; the notices are to be offered. -/
def State.handTrigger (t : Trigger) (s : State) : State × List Report :=
  let takers := s.cue.takers t
  let (order, s) := shuffle takers.length takers s
  let (cue, notices) := s.cue.deliver s.refTime t.record order
  ({ s with cue := cue }, notices.map s.noticeOf)

/-- R159: a trigger is raised: the channels take it, or it is posted to each of them while a hand-off is taken (log 33). -/
def State.raise (t : Trigger) (s : State) : State × List Report :=
  match s.outbox with
  | some ps => (s.withOutbox (some (ps ++ (s.cue.takers t).map (Post.trigger t))), [])
  | none => s.handTrigger t

/-- A trigger raised and its notices offered. -/
def State.raiseNow (t : Trigger) (s : State) : State :=
  let (s, reports) := s.raise t
  reports.foldl (fun s r => s.offer r) s

/-! ### Step expiry (R163 to R165) -/

/-- R163, step 5: the channel goes on after a step that was not the last of its list. -/
def CueEngine.goOn (now : Nat) (c : ChannelId) (ended : TriggerRec) (e : CueEngine) : CueEngine :=
  let ch := e.channels[c]
  match ch.config.mode, ch.waiting with
  | .single, record :: rest => (e.mapChannel c fun ch => { ch with waiting := rest }).startStep now c record
  | .single, [] => e.mapChannel c fun ch => { ch with state := .armed }
  | .run, _ => e.startStep now c ended

/-- R164, step 3: the channel goes on after the end of its list. -/
def CueEngine.listEnd (now : Nat) (c : ChannelId) (ended : TriggerRec) (e : CueEngine) : CueEngine :=
  let e := e.mapChannel c fun ch => { ch with pointer := 0 }
  match (e.channels[c]).config.endAction with
  | .stop => e.mapChannel c fun ch => { ch with waiting := [], state := .done }
  | .loop => e.goOn now c ended

/-- What an expiry does: the engine after it, its notices, and the triggers handed on after it (R165). -/
structure Expiry where
  cue : CueEngine
  notices : List Notice
  triggers : List Trigger
  deriving DecidableEq, Repr

/-- R163, R164: the running step r of channel c expires. -/
def CueEngine.expire (now : Nat) (c : ChannelId) (r : RunningStep) (e : CueEngine) : Expiry :=
  let e := (e.releaseStep c r).mapChannel c fun ch => { ch with pointer := ch.pointer + 1 }
  let ch := e.channels[c]
  if ch.config.count ≤ ch.pointer then
    { cue := e.listEnd now c r.record, notices := [.cueDone c ch.config.endAction],
      triggers := [.channelStep c r.record, .channelDone c r.record] }
  else { cue := e.goOn now c r.record, notices := [], triggers := [.channelStep c r.record] }

/-- R160, R165: one delivery of a trigger to a channel. -/
def State.takeChained (d : Trigger × ChannelId) (s : State) : State :=
  let (cue, notices) := s.cue.takeTrigger s.refTime d.2 d.1.record
  notices.foldl (fun s n => s.notify n) { s with cue := cue }

/-- A post reaches the report queue or its cue channel. -/
def State.takePost (p : Post) (s : State) : State :=
  match p with
  | .report r => s.offer r
  | .trigger t c => s.takeChained (t, c)

/-- R166, R180: streams of posts delivered, each in its order, the streams interleaved in any order. -/
def State.deliver (ss : List (List Post)) (s : State) : State := interleaveAll State.takePost ss s

/-- The end of a hand-off that was taken alone: what it posted is delivered. -/
def State.closeOutbox (o : Option (List Post)) (s : State) : State :=
  (s.withOutbox o).deliver (postStreams (s.outbox.getD []))

/-- R163 to R165: the running step of channel c expires, and the triggers it raises are handed on after it, in any order. -/
def State.expireStep (c : ChannelId) (r : RunningStep) (s : State) : State :=
  let x := s.cue.expire s.refTime c r
  let s := x.notices.foldl (fun s n => s.notify n) { s with cue := x.cue }
  inAnyOrder State.takeChained (x.triggers.flatMap fun t => (s.cue.takers t).map fun c => (t, c)) s

/-- R170: the cue engine at a system reset. -/
def CueEngine.systemReset (e : CueEngine) : CueEngine :=
  { e with
    lines := e.lines.map Line.toBase,
    channels := e.channels.map fun ch =>
      { ch with state := .off, pointer := 0, waiting := [], overrun := false, lastLine := none, serial := 0 } }

/-! ### The cue requests -/

/-- R155: the checks of one step record. -/
def cueStepOf (r : StepRec) : Option CueStep :=
  match targetModeOf r.mode, lineOf r.line with
  | some mode, some line =>
    if 1 ≤ r.duration.toNat then some { mode := mode, line := line, level := r.level, duration := r.duration.toNat }
    else none
  | _, _ => none

/-- R155: the records of a request, or the index of the first that fails. -/
def cueStepsOf : List StepRec → Nat → Except Nat (List CueStep)
  | [], _ => .ok []
  | r :: rest, i =>
    match cueStepOf r with
    | none => .error i
    | some step =>
      match cueStepsOf rest (i + 1) with
      | .ok steps => .ok (step :: steps)
      | .error j => .error j

/-- R155: records written to slots from a start slot on, past slot 255 at slot 0. -/
def writeSteps : Nat → List CueStep → Vector CueStep 256 → Vector CueStep 256
  | _, [], m => m
  | slot, step :: rest, m => writeSteps (slot + 1) rest (m.set (slot % 256) step (Nat.mod_lt _ (by omega)))

/-- R155: CUE_STEPS_PUT, all or nothing. -/
def takeCueStepsPut (startSlot : Byte) (steps : List StepRec) (s : State) : State × Reply :=
  let i := Instr.cueStepsPut startSlot steps
  match cueStepsOf steps 0 with
  | .error index => (s, replyFor i .badValue (num8 index))
  | .ok written =>
    (s.mapCue fun e => { e with memory := writeSteps startSlot.toNat written e.memory },
      replyFor i .ok (num8 written.length))

/-- R158, checks 4 to 6: what the source of a configuration asks of its masks and sets. -/
def CueConfig.sourceOk (cfg : CueConfig) : Bool :=
  match cfg.source with
  | .result => decide (cfg.stations ≠ 0) && decide (cfg.lanes ≠ 0) && decide (cfg.results ≠ 0)
  | .stationEnd => decide (cfg.stations ≠ 0)
  | .channelStep | .channelDone => decide (cfg.k.toNat ≤ 7)
  | .none | .linkFire | .measure | .songStart | .chartMark => true

/-- R158: the configuration that a request carries, where its checks 2 to 6 pass. -/
def cueConfigOf (r : ChannelRec) : Option CueConfig :=
  match cueModeOf r.mode, endActionOf r.endAction, retriggerOf r.retrigger, triggerSourceOf r.source with
  | some mode, some endAction, some retrigger, some source =>
    let cfg : CueConfig :=
      { first := ⟨r.firstStep.toNat % 256, Nat.mod_lt _ (by omega)⟩, count := r.stepCount.toNat, mode := mode,
        endAction := endAction, retrigger := retrigger, source := source, stations := stationMaskOf r.stationMask,
        lanes := laneMaskOf r.laneMask, results := r.resultSet, k := r.sourceChannel }
    if 1 ≤ r.stepCount.toNat ∧ r.stepCount.toNat ≤ 256 ∧ cfg.sourceOk then some cfg else none
  | _, _, _, _ => none

/-- R158: CUE_CHANNEL_SET. -/
def takeCueChannelSet (r : ChannelRec) (s : State) : State × Reply :=
  let i := Instr.cueChannelSet r
  match channelOf r.channel, cueConfigOf r with
  | some c, some cfg =>
    (s.mapCue fun e => (e.releaseRunning c).mapChannel c fun ch =>
        { ch with config := cfg, state := .armed, pointer := 0, waiting := [], overrun := false, lastLine := none },
      replyFor i .ok [])
  | _, _ => (s, replyFor i .badValue [])

/-- R167: CUE_FIRE. -/
def takeCueFire (channel : Byte) (s : State) : State × Reply :=
  let i := Instr.cueFire channel
  match channelOf channel with
  | none => (s, replyFor i .badValue [])
  | some c =>
    if (s.cue.channels[c]).config.source = .linkFire then
      let s := s.raiseNow (.linkFire c)
      (s, replyFor i .ok (num8 (s.cue.channels[c]).state.code))
    else (s, replyFor i .state [])

/-- R168: the channel after CUE_STOP. -/
def CueChannel.stop (ch : CueChannel) : CueChannel :=
  match ch.state with
  | .off => ch
  | .armed | .stepping _ | .done => { ch with state := .armed, pointer := 0, waiting := [] }

/-- R168: CUE_STOP. -/
def takeCueStop (channel : Byte) (s : State) : State × Reply :=
  let i := Instr.cueStop channel
  match channelOf channel with
  | none => (s, replyFor i .badValue [])
  | some c => (s.mapCue fun e => (e.releaseRunning c).mapChannel c CueChannel.stop, replyFor i .ok [])

/-- R152: a line takes a new base level, and shows it at once where it has no owner. -/
def Line.setBase (level : Byte) (l : Line) : Line :=
  { l with base := level, current := if l.owner.isNone then level else l.current }

/-- R152: base levels for the lines from a first line on; the request has checked that they fit. -/
def CueEngine.setBases : Nat → List Byte → CueEngine → CueEngine
  | _, [], e => e
  | n, level :: rest, e =>
    CueEngine.setBases (n + 1) rest (if h : n < 48 then e.mapLine ⟨n, h⟩ (Line.setBase level) else e)

/-- R152: LINE_BASE_SET. -/
def takeLineBaseSet (firstLine : Byte) (levels : List Byte) (s : State) : State × Reply :=
  let i := Instr.lineBaseSet firstLine levels
  if firstLine.toNat ≤ 47 ∧ firstLine.toNat + levels.length ≤ 48 then
    (s.mapCue (CueEngine.setBases firstLine.toNat levels), replyFor i .ok [])
  else (s, replyFor i .badValue [])

/-- R169: CUE_STATUS; a CHANNELS read clears the overrun flags it reported. -/
def takeCueStatus (part : Byte) (s : State) : State × Reply :=
  let i := Instr.cueStatus part
  match part.toNat with
  | 0 =>
    (s.mapCue fun e => { e with channels := e.channels.map fun ch => { ch with overrun := false } },
      replyFor i .ok s.cueChannelsBytes)
  | 1 => (s, replyFor i .ok s.cueLinesBytes)
  | _ => (s, replyFor i .badValue [])

end Sys2Proof.Machine
end

