-- ==== Sys2Proof/Machine/Score.lean ====
section
/-! DEFINITION. The score unit (chapters 06 and 07): applying a result, the combo ladder, saturation, life and the fail
check, the checkpoint stack and pending pushes, and the requests of both chapters. -/

namespace Sys2Proof.Machine

/-! ### Applying a result (R109) -/

/-- R110: what a result does to the combo. -/
inductive ComboEffect where
  | continues
  | breaks
  | leaves
  deriving DecidableEq, Repr

/-- R110: the combo effect of each result kind. -/
def ResultKind.comboEffect : ResultKind → ComboEffect
  | .exact | .close | .fair => .continues
  | .rough | .miss | .holdLost => .breaks
  | .holdOk | .mineHit => .leaves

/-- R110: the combo after a result. -/
def ResultKind.comboAfter (kind : ResultKind) (combo : Nat) : Nat :=
  match kind.comboEffect with
  | .continues => min maxWord (combo + 1)
  | .breaks => 0
  | .leaves => combo

/-- R111: the rung in force is the highest-numbered rung whose threshold is at or below the combo. -/
def rungFor (ladder : List Rung) (combo : Nat) : Nat :=
  ((List.range ladder.length).filter fun i => (ladder[i]?).any fun r => decide (r.threshold ≤ combo)).getLast?.getD 0

/-- R111: the multiplier of a rung, in sixteenths. -/
def multiplierAt (ladder : List Rung) (rung : Nat) : Nat := ((ladder[rung]?).map Rung.multiplier).getD 16

/-- R107: the bounds of the accumulator. -/
def accumulatorMax : Int := 34359738367

def accumulatorMin : Int := -34359738368

/-- R113: a sum saturated, with the bound reached. -/
def saturate (sum : Int) : Int × Option Bound :=
  if accumulatorMax < sum then (accumulatorMax, some .high)
  else if sum < accumulatorMin then (accumulatorMin, some .low)
  else (sum, none)

/-- R118: life after a delta, clamped to 0 to the life max. -/
def lifeAfter (lifeMax life : Nat) (delta : Int) : Nat := min lifeMax (Int.ofNat life + delta).toNat

/-- R120: a tally count, which stops at 4,294,967,295. -/
def tallyUp (n : Nat) : Nat := min maxWord (n + 1)

/-- What applying a result gives: the context after it, the bound of a first saturation (R114), and whether the station
is declared failed (R119). -/
structure Applied where
  context : ScoreContext
  overflow : Option Bound
  failed : Bool
  deriving DecidableEq, Repr

/-- R109: one result applied in six steps. -/
def applyResult (scoring : Scoring) (ladder : List Rung) (noFail : Bool) (kind : ResultKind) (c : ScoreContext) :
    Applied :=
  let combo := kind.comboAfter c.combo
  let rung := rungFor ladder combo
  let (accumulator, bound) := saturate (c.accumulator + scoring.weights.get kind * Int.ofNat (multiplierAt ladder rung))
  let life := lifeAfter scoring.lifeMax c.life (scoring.deltas.get kind)
  let zero := decide (life = 0)
  { context :=
      { accumulator := accumulator, ovf := c.ovf || bound.isSome, combo := combo, maxCombo := max c.maxCombo combo,
        rung := rung, life := life,
        tally :=
          { counts := c.tally.counts.set kind (tallyUp (c.tally.counts.get kind)), strays := c.tally.strays,
            wouldHaveFailed := c.tally.wouldHaveFailed || (zero && noFail) } },
    overflow := if c.ovf then none else bound,
    failed := zero && !noFail }

/-- Station k's context changed by f. -/
def State.mapContext (k : StationId) (f : ScoreContext → ScoreContext) (s : State) : State :=
  s.mapStation k fun st => { st with context := f st.context }

/-- R109: the result that the engine of station k hands over, by the tables and the no-fail option in force. -/
def State.applied (k : StationId) (kind : ResultKind) (s : State) : Applied :=
  applyResult s.scoring s.ladder (s.station k).noFail kind (s.station k).context

/-- R74: a stray. -/
def State.addStray (k : StationId) (s : State) : State :=
  s.mapContext k fun c => { c with tally := { c.tally with strays := tallyUp c.tally.strays } }

/-! ### Checkpoints (chapter 07) -/

/-- Whether an entry is a TAP or a HOLD. -/
def Entry.isStep (e : Entry) : Bool :=
  match e.body with
  | .tap _ _ | .hold _ _ _ _ => true
  | .mine _ _ | .cueMark _ | .endMark => false

/-- R51: two entries are members of one chord. -/
def Entry.sameChord (a b : Entry) : Bool := a.chord.isSome && b.isStep && decide (a.tick = b.tick)

/-- R127: a chord of the queue has a member JUDGED while another member is OPEN. -/
def partlyJudged (queue : List Entry) : Bool :=
  queue.any fun a =>
    match a.state with
    | .judged _ _ => queue.any fun b => a.sameChord b && decide (b.state = .opened)
    | .queued | .opened | .holding => false

/-- R127: station k is at a quiet point. -/
def State.quiet (s : State) (k : StationId) : Bool :=
  !(s.station k).queue.any Entry.isHolding && !partlyJudged (s.station k).queue &&
    !allLanes.any fun l => s.lanePressing k l

/-- R126, R128, R129: the live context copied onto the top of the stack. -/
def Station.push (st : Station) : Station := { st with stack := st.context :: st.stack, pushPending := false }

/-- R128, R129: a pending push is taken; the notice is to be offered. -/
def State.takePush (k : StationId) (point : PushPoint) (s : State) : State × List Report :=
  let st := s.station k
  if st.pushPending then
    (s.mapStation k Station.push,
      [s.noticeOf (.checkpointTaken k (st.stack.length + 1) st.context.displayed point)])
  else (s, [])

/-- R128: the quiet-point test at the end of an event of station k's engine. -/
def State.testPush (k : StationId) (s : State) : State :=
  if s.playing k && s.quiet k then
    let (s, reports) := s.takePush k .quiet
    reports.foldl (fun s r => s.offer r) s
  else s

/-! ### Requests of the score unit -/

/-- R117: the values of SCORING_SET, where they pass its second check. -/
def scoringOf (r : ScoringRec) : Option Scoring :=
  let deltas := r.deltas.map BitVec.toInt
  if deltas.every (fun d => decide (-1000 ≤ d ∧ d ≤ 1000)) ∧ 1 ≤ r.lifeMax.toNat ∧ r.lifeMax.toNat ≤ 1000 ∧
      1 ≤ r.lifeStart.toNat ∧ r.lifeStart.toNat ≤ r.lifeMax.toNat then
    some { weights := r.weights.map BitVec.toInt, deltas := deltas, lifeMax := r.lifeMax.toNat,
           lifeStart := r.lifeStart.toNat }
  else none

/-- R117: a life above the life max is set to it. -/
def ScoreContext.clampLife (lifeMax : Nat) (c : ScoreContext) : ScoreContext := { c with life := min lifeMax c.life }

/-- R117: SCORING_SET. -/
def takeScoringSet (r : ScoringRec) (s : State) : State × Reply :=
  let i := Instr.scoringSet r
  if s.song.state.active then (s, replyFor i .state [])
  else
    match scoringOf r with
    | none => (s, replyFor i .badValue [])
    | some scoring =>
      ({ s with
          scoring := scoring,
          stations := s.stations.map fun st =>
            { st with
              context := st.context.clampLife scoring.lifeMax,
              stack := st.stack.map (ScoreContext.clampLife scoring.lifeMax) } },
        replyFor i .ok [])

/-- R112: thresholds that rise strictly. -/
def thresholdsRise : List Rung → Bool
  | a :: b :: rest => decide (a.threshold < b.threshold) && thresholdsRise (b :: rest)
  | _ => true

/-- R112: the second check of LADDER_SET. -/
def ladderOk (ladder : List Rung) : Bool :=
  decide (1 ≤ ladder.length ∧ ladder.length ≤ 8) && decide ((ladder.head?.map Rung.threshold) = some 0) &&
    thresholdsRise ladder && ladder.all fun r => decide (16 ≤ r.multiplier ∧ r.multiplier ≤ 255)

/-- R112: LADDER_SET. -/
def takeLadderSet (rungs : List RungRec) (s : State) : State × Reply :=
  let i := Instr.ladderSet rungs
  let ladder := rungs.map fun r => { threshold := r.threshold.toNat, multiplier := r.multiplier.toNat : Rung }
  if s.song.state.active then (s, replyFor i .state [])
  else if ladderOk ladder then
    ({ s with
        ladder := ladder,
        stations := s.stations.map fun st =>
          { st with context := { st.context with rung := rungFor ladder st.context.combo } } },
      replyFor i .ok [])
  else (s, replyFor i .badValue [])

/-- R121: TALLY_READ. -/
def takeTallyRead (station : Byte) (s : State) : State × Reply :=
  let i := Instr.tallyRead station
  match stationOf station with
  | none => (s, replyFor i .badValue [])
  | some k => (s, replyFor i .ok (num8 k.val ++ (s.station k).context.bytes))

/-- R126: CHECKPOINT_PUSH. -/
def takeCheckpointPush (station : Byte) (s : State) : State × Reply :=
  let i := Instr.checkpointPush station
  match stationOf station with
  | none => (s, replyFor i .badValue [])
  | some k =>
    let st := s.station k
    if st.state = .vacant then (s, replyFor i .state [])
    else if st.pushPending then (s, replyFor i .busy [])
    else if 4 ≤ st.stack.length then (s, replyFor i .stackFull [])
    else if st.state = .playing ∧ s.quiet k = false then
      (s.mapStation k fun st => { st with pushPending := true }, replyFor i .pending (num8 st.stack.length))
    else (s.mapStation k Station.push, replyFor i .ok (num8 (st.stack.length + 1)))

/-- R131: CHECKPOINT_POP. -/
def takeCheckpointPop (station : Byte) (s : State) : State × Reply :=
  let i := Instr.checkpointPop station
  match stationOf station with
  | none => (s, replyFor i .badValue [])
  | some k =>
    let st := s.station k
    if st.pushPending then (s, replyFor i .busy [])
    else if st.state = .playing ∨ st.state = .vacant then (s, replyFor i .state [])
    else
      match st.stack with
      | [] => (s, replyFor i .stackEmpty [])
      | c :: rest =>
        (s.mapStation k fun st => { st with context := c, stack := rest },
          replyFor i .ok (num8 rest.length ++ num32 c.displayed))

/-- R132: CHECKPOINT_DROP. -/
def takeCheckpointDrop (station : Byte) (s : State) : State × Reply :=
  let i := Instr.checkpointDrop station
  match stationOf station with
  | none => (s, replyFor i .badValue [])
  | some k =>
    let st := s.station k
    if st.pushPending then (s, replyFor i .busy [])
    else
      match st.stack with
      | [] => (s, replyFor i .stackEmpty [])
      | _ :: rest => (s.mapStation k fun st => { st with stack := rest }, replyFor i .ok (num8 rest.length))

/-- R133: CHECKPOINT_READ. -/
def takeCheckpointRead (station : Byte) (s : State) : State × Reply :=
  let i := Instr.checkpointRead station
  match stationOf station with
  | none => (s, replyFor i .badValue [])
  | some k =>
    match (s.station k).stack with
    | [] => (s, replyFor i .stackEmpty [])
    | c :: rest => (s, replyFor i .ok (num8 (rest.length + 1) ++ c.bytes))

end Sys2Proof.Machine
end

