-- ==== Sys2Proof/Machine/Engine.lean ====
section
/-! DEFINITION. The judgement engine of a station (chapters 04 and 05) and what the station does as it judges: giving a
result, the three ends, windows, presses, held closes, holds, mines, markers, and the four phases of a change of song
time. -/

namespace Sys2Proof.Machine

/-! ### Entries -/

/-- R45: the mapped lane of an entry. -/
def Entry.lane (e : Entry) : Option LaneId :=
  match e.body with
  | .tap _ l | .hold _ l _ _ | .mine _ l => some l
  | .cueMark _ | .endMark => none

/-- R45: the chart lane of an entry; markers have none and 0 stands for it. -/
def Entry.chartLane (e : Entry) : LaneId :=
  match e.body with
  | .tap c _ | .hold c _ _ _ | .mine c _ => c
  | .cueMark _ | .endMark => 0

/-- Whether an entry is a HOLD. -/
def Entry.isHold (e : Entry) : Bool :=
  match e.body with
  | .hold _ _ _ _ => true
  | .tap _ _ | .mine _ _ | .cueMark _ | .endMark => false

/-- Whether an entry is a MINE. -/
def Entry.isMine (e : Entry) : Bool :=
  match e.body with
  | .mine _ _ => true
  | .tap _ _ | .hold _ _ _ _ | .cueMark _ | .endMark => false

/-- R45: the tail frame of a HOLD. -/
def Entry.tailFrame (e : Entry) : Int :=
  match e.body with
  | .hold _ _ _ tail => tail
  | .tap _ _ | .mine _ _ | .cueMark _ | .endMark => e.frame

/-- Whether an entry is in state JUDGED. -/
def Entry.isJudged (e : Entry) : Bool :=
  match e.state with
  | .judged _ _ => true
  | .queued | .opened | .holding => false

/-- R64, R99: the half width of the window of an entry's kind; a marker has none. -/
def Entry.width (w : Windows) (e : Entry) : Nat :=
  match e.body with
  | .tap _ _ | .hold _ _ _ _ => w.w4
  | .mine _ _ => w.wm
  | .cueMark _ | .endMark => 0

/-- R64, R99: the open frame of an entry, formed exactly. -/
def Entry.openFrame (w : Windows) (e : Entry) : Int := e.frame - Int.ofNat (e.width w)

/-- R64, R99: the close frame of an entry, formed exactly. -/
def Entry.closeFrame (w : Windows) (e : Entry) : Int := e.frame + Int.ofNat (e.width w)

/-- The set of the lane of an entry. -/
def Entry.laneSet (e : Entry) : LaneSet :=
  match e.lane with
  | some l => LaneSet.single l
  | none => 0

/-- The entry of a queue with a serial. -/
def Station.entry? (st : Station) (seq : Nat) : Option Entry := st.queue.find? fun e => decide (e.seq = seq)

/-- R51: the members of an entry's chord, in queue order, or the lone entry itself. -/
def Station.group (st : Station) (e : Entry) : List Entry :=
  st.queue.filter fun x => decide (x.seq = e.seq) || e.sameChord x

/-- The queue without the entries of some serials; the entries behind close up (R44). -/
def Station.without (seqs : List Nat) (st : Station) : Station :=
  { st with queue := st.queue.filter fun e => !seqs.contains e.seq }

/-- The entries of some serials changed by f. -/
def Station.mapEntries (seqs : List Nat) (f : Entry → Entry) (st : Station) : Station :=
  { st with queue := st.queue.map fun e => if seqs.contains e.seq then f e else e }

/-- R89: an item put into the hold list, which is kept in ascending lane order. -/
def insertHold (item : HoldItem) : List HoldItem → List HoldItem
  | [] => [item]
  | h :: rest => if item.lane.val ≤ h.lane.val then item :: h :: rest else h :: insertHold item rest

/-- R76: an item put into the held close list, which is kept in queue order. -/
def insertHeld (item : HeldClose) : List HeldClose → List HeldClose
  | [] => [item]
  | h :: rest => if item.seq ≤ h.seq then item :: h :: rest else h :: insertHeld item rest

/-- The hold item of a lane. -/
def Station.holdOn (st : Station) (l : LaneId) : Option HoldItem := st.holds.find? fun h => decide (h.lane = l)

/-- R89: the deadline of a lane's hold item replaced. -/
def Station.setDeadline (l : LaneId) (d : Deadline) (st : Station) : Station :=
  { st with holds := st.holds.map fun h => if h.lane = l then { h with deadline := d } else h }

/-! ### The ends of a station (R57 to R60) -/

/-- R57: how many entries a drain counts as taps and holds drained unplayed. -/
def drainedSteps (queue : List Entry) : Nat := queue.countP fun e => e.isStep && !e.isHolding

/-- R57: how many entries a drain counts as mines drained unplayed. -/
def drainedMines (queue : List Entry) : Nat := queue.countP Entry.isMine

/-- R57, R66: every entry leaves the queue, with the held closes, the hold list and the carried-in lanes. -/
def Station.emptied (st : Station) : Station := { st with queue := [], heldCloses := [], holds := [], carriedIn := 0 }

/-- R57: the drain of a station that is played. -/
def State.drain (k : StationId) (s : State) : State :=
  let queue := (s.station k).queue
  ((s.countUp k .stepsDrained (drainedSteps queue)).countUp k .minesDrained (drainedMines queue)).mapStation k
    Station.emptied

/-- R37: the station state of an end. -/
def EndState.station : EndState → StationState
  | .cleared => .cleared
  | .failed => .failed
  | .aborted => .aborted

/-- R58, R59: the notice that a station's end offers, if it offers one. -/
def State.endNotice (s : State) (k : StationId) : EndState → List Report
  | .cleared => [s.noticeOf (.cleared k (s.station k).context.displayed)]
  | .failed => [s.noticeOf (.failed k (s.station k).context.displayed)]
  | .aborted => []

/-- R37: the STATION_END trigger of an end; an entry into ABORTED raises none. -/
def State.endTrigger (k : StationId) (e : EndState) (s : State) : State × List Report :=
  match e with
  | .cleared | .failed => s.raise (.stationEnd k)
  | .aborted => (s, [])

/-- R129: the point of a push pending at an end. Where the event that clears the station also leaves it quiet, the
quiet-point test or the end takes the push first (log 21). -/
def State.endPoint (k : StationId) (e : EndState) (s : State) : PushPoint × State :=
  let open2 := decide (e = .cleared) && (s.station k).pushPending && s.quiet k
  let (quietFirst, s) := s.chooseIf open2
  (if quietFirst then .quiet else .ended e, s)

/-- R37, R57 to R60, R129: station k enters an end state: its queue is drained, a pending push is taken, and the
STATION_END trigger is raised. The reports are to be offered. -/
def State.enterEnd (k : StationId) (e : EndState) (s : State) : State × List Report :=
  let s := (s.drain k).mapStation k fun st => { st with state := e.station }
  let notices := s.endNotice k e
  let (point, s) := s.endPoint k e
  let (s, taken) := s.takePush k point
  let (s, cues) := s.endTrigger k e
  (s, notices ++ taken ++ cues)

/-- R37, R146: a station end event on its way to song control. -/
def State.handEnd (k : StationId) (e : EndState) (s : State) : State :=
  s.mapSong fun g => { g with ends := g.ends ++ [(k, e)] }

/-- R58, R59: station k ends by its own play, and its end event goes to song control. -/
def State.endStation (k : StationId) (e : EndState) (s : State) : State :=
  let (s, reports) := s.enterEnd k e
  (s.handEnd k e).offerNowOrLater reports

/-- R58: a PLAYING station with END-passed set and an empty queue enters CLEARED. -/
def State.checkCleared (k : StationId) (s : State) : State :=
  if s.playing k && (s.station k).endPassed && (s.station k).queue.isEmpty then s.endStation k .cleared else s

/-! ### Giving a result (R83) -/

/-- A result as the engine gives it: what its report carries (R84), its chart count and by how much that rises (R61). -/
structure Given where
  kind : ResultKind
  noteId : Half
  chartLane : LaneId
  lanes : LaneSet
  offset : Option Int
  count : CountKind
  countBy : Nat
  deriving DecidableEq, Repr

/-- R84: the RESULT report of a result given to station k, after it has been applied. -/
def State.resultReport (s : State) (k : StationId) (g : Given) : Report :=
  let c := (s.station k).context
  .result
    { station := k, kind := g.kind, noteId := g.noteId, chartLane := g.chartLane, lanes := g.lanes, offset := g.offset,
      songTime := s.now, comboAfter := c.combo, displayedAfter := c.displayed, lifeAfter := c.life, rungAfter := c.rung }

/-- R85: the RESULT report is offered with report level RESULTS. -/
def State.resultReports (s : State) (k : StationId) (g : Given) : List Report :=
  match (s.station k).reportLevel with
  | .results => [s.resultReport k g]
  | .silent => []

/-- R83, step 3, with R114: the result is applied, and a first saturation offers SCORE_OVF. -/
def State.applyGiven (k : StationId) (kind : ResultKind) (s : State) : State :=
  let applied := s.applied k kind
  let s := s.mapContext k fun _ => applied.context
  match applied.overflow with
  | some bound => s.notify (.scoreOvf k bound)
  | none => s

/-- R83: a result is given to station k; `update` is what step 1 does to its entries. Nothing is given once the station
has left PLAYING (R59). -/
def State.giveResult (k : StationId) (g : Given) (update : Station → Station) (s : State) : State :=
  if s.playing k then
    let s := (s.mapStation k update).countUp k g.count g.countBy
    let failed := (s.applied k g.kind).failed
    let s := s.applyGiven k g.kind
    let reports := s.resultReports k g
    let (s, cues) := s.raise (.result k g.kind g.lanes)
    let s := s.offerStreams [reports, cues]
    if failed then s.endStation k .failed else s.checkCleared k
  else s

/-- A result of an entry itself (R84). -/
def Entry.given (e : Entry) (kind : ResultKind) (offset : Option Int) (count : CountKind) : Given :=
  { kind := kind, noteId := e.noteId, chartLane := e.chartLane, lanes := e.laneSet, offset := offset, count := count,
    countBy := 1 }

/-! ### Holds (R89 to R98) -/

/-- R96: the entry of a hold result leaves the queue and its item leaves the hold list. -/
def Station.dropHold (seq : Nat) (st : Station) : Station :=
  { st.without [seq] with holds := st.holds.filter fun h => decide (h.seq ≠ seq) }

/-- R96: HOLD_OK for the HOLD of a serial. -/
def State.giveHoldOk (k : StationId) (seq : Nat) (s : State) : State :=
  match (s.station k).entry? seq with
  | some e => s.giveResult k (e.given .holdOk none .holdOk) (Station.dropHold seq)
  | none => s

/-- R96: HOLD_LOST for the HOLD of a serial. -/
def State.giveHoldLost (k : StationId) (seq : Nat) (s : State) : State :=
  match (s.station k).entry? seq with
  | some e => s.giveResult k (e.given .holdLost none .holdLost) (Station.dropHold seq)
  | none => s

/-- R95: the tail of the hold of a serial has been reached. -/
def State.tailReached (s : State) (k : StationId) (seq : Nat) : Bool :=
  ((s.station k).entry? seq).any fun e => decide (e.tailFrame ≤ s.now)

/-- R90, R95, R97: HOLD_OK at once for a hold whose tail has been reached. -/
def State.okIfTailReached (k : StationId) (seq : Nat) (s : State) : State :=
  if s.playing k && s.tailReached k seq then s.giveHoldOk k seq else s

/-- R93: a reached deadline: the hold is lost, or the deadline is HELD while the lane is PRESSING. -/
def State.reachDeadline (k : StationId) (item : HoldItem) (frame : Int) (s : State) : State :=
  if s.lanePressing k item.lane then s.mapStation k (Station.setDeadline item.lane (.held frame))
  else s.giveHoldLost k item.seq

/-- R91: a RELEASE taken by the hold item of its lane. -/
def State.releaseHold (k : StationId) (item : HoldItem) (time : Int) (s : State) : State :=
  match item.deadline with
  | .none =>
    let frame := time + Int.ofNat s.windows.lg
    let s := s.mapStation k (Station.setDeadline item.lane (.pending frame))
    if frame ≤ s.now then s.reachDeadline k item frame else s
  | .pending _ | .held _ => s

/-- R92, R93: a PRESS that goes to the hold item of its lane. -/
def State.regrab (k : StationId) (item : HoldItem) (s : State) : State :=
  match item.deadline with
  | .none => s
  | .pending _ => s.mapStation k (Station.setDeadline item.lane .none)
  | .held _ => (s.mapStation k (Station.setDeadline item.lane .none)).okIfTailReached k item.seq

/-- R106, phase 4: the hold item of a lane: its tail (R95) if due, otherwise its deadline (R93) if due. -/
def State.holdEvent (k : StationId) (l : LaneId) (s : State) : State :=
  if s.playing k then
    match (s.station k).holdOn l with
    | none => s
    | some item =>
      match item.deadline with
      | .none => s.okIfTailReached k item.seq
      | .pending frame =>
        if s.tailReached k item.seq && ((s.station k).entry? item.seq).all (fun e => decide (e.tailFrame ≤ frame)) then
          s.giveHoldOk k item.seq
        else if frame ≤ s.now then s.reachDeadline k item frame
        else s
      | .held _ => s
  else s

/-- R97: the deadline of a hold item at the resume, by its lane's panel. -/
def State.resumeDeadline (s : State) (k : StationId) (l : LaneId) : Deadline :=
  if s.laneDown k l then .none else .pending (s.now + Int.ofNat s.windows.lg)

/-- R97: the holds at the resume: every deadline set, then HOLD_OK for each whose tail was reached, in lane order. -/
def State.resumeHolds (k : StationId) (s : State) : State :=
  let holds := (s.station k).holds
  let s := s.mapStation k fun st =>
    { st with holds := st.holds.map fun h => { h with deadline := s.resumeDeadline k h.lane } }
  holds.foldl (fun s h => s.okIfTailReached k h.seq) s

/-! ### Grades and chords (R64, R73, R80 to R82) -/

/-- The distance |t - f| of a press from an entry. -/
def distance (t f : Int) : Nat := (t - f).natAbs

/-- R64: the grade of a distance. -/
def gradeOf (w : Windows) (d : Nat) : Grade :=
  if d ≤ w.w1 then .exact else if d ≤ w.w2 then .close else if d ≤ w.w3 then .fair else .rough

/-- R81: EXACT is best and ROUGH is worst. -/
def Grade.rank : Grade → Nat
  | .exact => 0
  | .close => 1
  | .fair => 2
  | .rough => 3

/-- R81: the worse of two grades. -/
def Grade.worse (a b : Grade) : Grade := if a.rank ≤ b.rank then b else a

/-- The result kind of a grade. -/
def Grade.result : Grade → ResultKind
  | .exact => .exact
  | .close => .close
  | .fair => .fair
  | .rough => .rough

/-- R61: the note count of a grade. -/
def Grade.count : Grade → CountKind
  | .exact => .exactNotes
  | .close => .closeNotes
  | .fair => .fairNotes
  | .rough => .roughNotes

/-- R81: the worst of a grade and the grades recorded on JUDGED members. -/
def worstGrade (g : Grade) (members : List Entry) : Grade :=
  members.foldl (fun acc e =>
    match e.state with
    | .judged grade _ => acc.worse grade
    | .queued | .opened | .holding => acc) g

/-- R69, R53: the windows of an entry and of every member of its chord open together, and the tick is sealed. -/
def Station.openSteps (e : Entry) (st : Station) : Station :=
  { st.mapEntries ((st.group e).map Entry.seq)
      (fun x => if x.state = .queued then { x with state := .opened } else x) with
    intake := { st.intake with sealedTick := some e.tick } }

/-- R81: the heads of a group are given: each TAP leaves, each HOLD enters HOLDING, its grade and offset discarded. -/
def Station.settleHeads (members : List Entry) (st : Station) : Station :=
  (st.without ((members.filter fun e => !e.isHold).map Entry.seq)).mapEntries
    ((members.filter Entry.isHold).map Entry.seq) fun e => { e with state := .holding }

/-- R90: the hold item of a HOLD whose head has been graded. -/
def State.holdItemOf (s : State) (k : StationId) (e : Entry) (l : LaneId) : HoldItem :=
  { lane := l, seq := e.seq,
    deadline := if s.laneDown k l then .none else .pending (s.now + Int.ofNat s.windows.lg) }

/-- R89: an item joins the hold list, which holds at most one item a lane; a lane that has one takes no second (log 42). -/
def joinHold (item : HoldItem) (holds : List HoldItem) : List HoldItem :=
  if holds.any fun h => decide (h.lane = item.lane) then holds else insertHold item holds

/-- R90: the HOLD members of a graded group join the hold list. -/
def State.joinHolds (s : State) (k : StationId) (members : List Entry) (st : Station) : Station :=
  { st with
    holds := members.foldl (fun holds e =>
      match e.isHold, e.lane with
      | true, some l => joinHold (s.holdItemOf k e l) holds
      | _, _ => holds) st.holds }

/-- The lanes of a group. -/
def lanesOf (members : List Entry) : LaneSet := members.foldl (fun acc e => acc ||| e.laneSet) 0

/-- The result of a group's heads: note id and chart lane of the member accepted first, the lanes of all (R81, R82). -/
def groupGiven (members : List Entry) (first : Entry) (kind : ResultKind) (offset : Option Int) (count : CountKind) :
    Given :=
  { kind := kind, noteId := first.noteId, chartLane := first.chartLane, lanes := lanesOf members, offset := offset,
    count := count, countBy := members.length }

/-- R73, R81, R90: the heads of a group are graded with one result; each HOLD joins the hold list, and one whose tail has
been reached is given HOLD_OK at once. -/
def State.gradeGroup (k : StationId) (members : List Entry) (first : Entry) (grade : Grade) (offset : Int) (s : State) :
    State :=
  let s := s.giveResult k (groupGiven members first grade.result (some offset) grade.count)
    (fun st => s.joinHolds k members (st.settleHeads members))
  (members.filter Entry.isHold).foldl (fun s e => s.okIfTailReached k e.seq) s

/-- R70, R82: the heads of a group are given one MISS; each HOLD enters HOLDING without joining the hold list, and is then
given HOLD_LOST. -/
def State.missGroup (k : StationId) (members : List Entry) (first : Entry) (s : State) : State :=
  let s := s.giveResult k (groupGiven members first .miss none .missNotes) (Station.settleHeads members)
  (members.filter Entry.isHold).foldl (fun s e => if s.playing k then s.giveHoldLost k e.seq else s) s

/-! ### Window closes and held closes (R70, R71, R76) -/

/-- R70, R71, R76: the lanes of the OPEN members that are PRESSING and not carried-in. -/
def State.waitingLanes (s : State) (k : StationId) (members : List Entry) : LaneSet :=
  members.foldl (fun acc e =>
    match e.state, e.lane with
    | .opened, some l =>
      if s.lanePressing k l && !LaneSet.has (s.station k).carriedIn l then acc ||| LaneSet.single l else acc
    | _, _ => acc) 0

/-- Whether a group has a member still OPEN. -/
def someOpen (members : List Entry) : Bool := members.any fun e => decide (e.state = .opened)

/-- R76: the held item of a serial is taken off the list. -/
def Station.dropHeld (seq : Nat) (st : Station) : Station :=
  { st with heldCloses := st.heldCloses.filter fun h => decide (h.seq ≠ seq) }

/-- R76, R88: an item of the held close list is examined; `left` says that all the lanes it waited on left PRESSING during
a halt, so that its close takes effect whatever its lanes show now. -/
def State.examineItem (left : Bool) (k : StationId) (seq : Nat) (s : State) : State :=
  if s.playing k then
    match (s.station k).entry? seq with
    | none => s.mapStation k (Station.dropHeld seq)
    | some e =>
      let members := (s.station k).group e
      let waits := if left then 0 else s.waitingLanes k members
      if !someOpen members then s.mapStation k (Station.dropHeld seq)
      else if waits ≠ 0 then
        s.mapStation k fun st =>
          { st with heldCloses := st.heldCloses.map fun h => if h.seq = seq then { h with waits := waits } else h }
      else (s.mapStation k (Station.dropHeld seq)).missGroup k members e
  else s

/-- R76: an item of the held close list is examined by the lanes as they are. -/
def State.examine (k : StationId) (seq : Nat) (s : State) : State := s.examineItem false k seq

/-- R88: the held item of a serial whose waiting lanes all left PRESSING during the halt. -/
def Station.leftWaiting (st : Station) (seq : Nat) : Bool :=
  st.heldCloses.any fun h => decide (h.seq = seq) && decide (h.waits = 0)

/-- R88, step 2: an item of the held close list is examined at the resume. An item whose waiting lanes all left PRESSING
during the halt takes effect, also where such a lane is PRESSING again (log 34). -/
def State.examineAtResume (k : StationId) (seq : Nat) (s : State) : State :=
  s.examineItem ((s.station k).leftWaiting seq) k seq

/-- R77, R78: the held items that wait on a lane, in queue order. -/
def Station.heldOn (st : Station) (l : LaneId) : List Nat :=
  (st.heldCloses.filter fun h => LaneSet.has h.waits l).map HeldClose.seq

/-- R77, R78: items of the held close list examined one after another. -/
def State.examineAll (k : StationId) (seqs : List Nat) (s : State) : State :=
  seqs.foldl (fun s seq => s.examine k seq) s

/-- R70, R71: the close of a TAP, of a HOLD or of a chord, at its first member: it is held, or takes effect. -/
def State.closeSteps (k : StationId) (e : Entry) (s : State) : State :=
  let members := (s.station k).group e
  let first := decide ((members.head?.map Entry.seq) = some e.seq)
  let isHeld := (s.station k).heldCloses.any fun h => decide (h.seq = e.seq)
  let waits := s.waitingLanes k members
  if !someOpen members || !first || isHeld then s
  else if waits ≠ 0 then
    s.mapStation k fun st => { st with heldCloses := insertHeld { seq := e.seq, waits := waits } st.heldCloses }
  else s.missGroup k members e

/-! ### Mines (R99 to R102) -/

/-- R101: MINE_HIT for a mine. -/
def State.hitMine (k : StationId) (e : Entry) (s : State) : State :=
  s.giveResult k (e.given .mineHit none .minesHit) (Station.without [e.seq])

/-- R101: an OPEN mine at its close is avoided. -/
def State.avoidMine (k : StationId) (e : Entry) (s : State) : State :=
  ((s.mapStation k (Station.without [e.seq])).countUp k .minesAvoided 1).checkCleared k

/-- R99, R102: a mine window opens, with its standing test. A mine whose window has already closed, as at the start edge,
is opened without the test, to be avoided at its close. -/
def State.openMine (k : StationId) (e : Entry) (s : State) : State :=
  if decide (s.now < e.closeFrame s.windows) && e.lane.any fun l => s.laneDown k l then s.hitMine k e
  else s.mapStation k (Station.mapEntries [e.seq] fun x => { x with state := .opened })

/-! ### Markers (R103 to R105) -/

/-- R103 to R105: a marker whose frame is not after song time. A CUE_MARK whose frame lies before song time, as at the
start edge, is passed over without a trigger. -/
def State.takeMarker (k : StationId) (e : Entry) (s : State) : State :=
  match e.body with
  | .cueMark channel =>
    let s := s.mapStation k (Station.without [e.seq])
    let s := if e.frame = s.now then s.raiseNow (.chartMark channel) else s
    s.checkCleared k
  | .endMark => (s.mapStation k fun st => { st.without [e.seq] with endPassed := true }).checkCleared k
  | .tap _ _ | .hold _ _ _ _ | .mine _ _ => s

/-! ### A change of song time (R106) -/

/-- The entries of station k as they stand, each taken by f while the station is PLAYING, in queue order; f is given an
entry as it then is in the queue. -/
def State.forEntries (k : StationId) (f : Entry → State → State) (s : State) : State :=
  ((s.station k).queue.map Entry.seq).foldl (fun s seq =>
    if s.playing k then
      match (s.station k).entry? seq with
      | some e => f e s
      | none => s
    else s) s

/-- R69, R99: the window open of an entry, where it is due. -/
def State.openEvent (k : StationId) (e : Entry) (s : State) : State :=
  if e.state = .queued ∧ e.openFrame s.windows ≤ s.now then
    if e.isStep then s.mapStation k (Station.openSteps e) else if e.isMine then s.openMine k e else s
  else s

/-- R103, R104: the marker event of an entry, where it is due. -/
def State.markerEvent (k : StationId) (e : Entry) (s : State) : State :=
  if e.frame ≤ s.now then s.takeMarker k e else s

/-- R70, R71, R101: the window close of an entry, where it is due. -/
def State.closeEvent (k : StationId) (e : Entry) (s : State) : State :=
  if e.closeFrame s.windows ≤ s.now then
    if e.isStep then s.closeSteps k e else if e.isMine ∧ e.state = .opened then s.avoidMine k e else s
  else s

/-- R106, phase 1. -/
def State.openPhase (k : StationId) (s : State) : State := s.forEntries k (State.openEvent k)

/-- R106, phase 2. -/
def State.markerPhase (k : StationId) (s : State) : State := s.forEntries k (State.markerEvent k)

/-- R106, phase 3. -/
def State.closePhase (k : StationId) (s : State) : State := s.forEntries k (State.closeEvent k)

/-- R106, phase 4: the holds in ascending lane order. -/
def State.holdPhase (k : StationId) (s : State) : State :=
  ((s.station k).holds.map HoldItem.lane).foldl (fun s l => s.holdEvent k l) s

/-- R106: the engine of station k takes one change of song time, and a pending push is tested at its end (R128). -/
def State.songTimeChange (k : StationId) (s : State) : State :=
  ((((s.openPhase k).markerPhase k).closePhase k).holdPhase k).testPush k

/-! ### Contact events (R72 to R78, R87, R91) -/

/-- R72, step 3: an entry is eligible for a press on lane l with crossing time t. -/
def Station.eligible (w : Windows) (st : Station) (l : LaneId) (t : Int) (e : Entry) : Bool :=
  e.isStep && decide (e.lane = some l) && decide (e.state = .queued ∨ e.state = .opened) &&
    decide (distance t e.frame ≤ w.w4) &&
    !(e.isHold && st.queue.any fun x => x.isHold && decide (x.lane = some l) && x.isJudged)

/-- R73, R80, R81: the entry judged by a press with crossing time t. -/
def State.judge (k : StationId) (e : Entry) (t : Int) (s : State) : State :=
  let s := if e.state = .queued then s.mapStation k (Station.openSteps e) else s
  let members := (s.station k).group e
  let grade := gradeOf s.windows (distance t e.frame)
  let offset := t - e.frame
  let others := members.filter fun x => decide (x.seq ≠ e.seq)
  if someOpen others then
    s.mapStation k (Station.mapEntries [e.seq] fun x => { x with state := .judged grade offset })
  else s.gradeGroup k members (members.headD e) (worstGrade grade others) offset

/-- R72, steps 2 and 3: the press goes to the lane's hold, judges the earliest eligible entry, or is a stray. -/
def State.pressSteps (k : StationId) (l : LaneId) (t : Int) (s : State) : State :=
  let st := s.station k
  match st.holdOn l with
  | some item => s.regrab k item
  | none =>
    match st.queue.find? (st.eligible s.windows l t) with
    | some e => s.judge k e t
    | none => s.addStray k

/-- R100: a mine is eligible for a press on lane l with crossing time t. -/
def mineEligible (w : Windows) (l : LaneId) (t : Int) (e : Entry) : Bool :=
  e.isMine && decide (e.lane = some l) && decide (e.state = .queued ∨ e.state = .opened) &&
    decide (distance t e.frame ≤ w.wm)

/-- R72, step 4: the press is offered to the mines of its lane. -/
def State.pressMines (k : StationId) (l : LaneId) (t : Int) (s : State) : State :=
  if s.playing k then
    match (s.station k).queue.find? (mineEligible s.windows l t) with
    | some e => s.hitMine k e
    | none => s
  else s

/-- R75, R87: the lane leaves the carried-in lane set. -/
def State.uncarry (k : StationId) (l : LaneId) (s : State) : State :=
  s.mapStation k fun st => { st with carriedIn := LaneSet.without st.carriedIn l }

/-- R72, R75, R77: a PRESS in a RUNNING song. -/
def State.pressed (k : StationId) (l : LaneId) (t : Int) (s : State) : State :=
  if LaneSet.has (s.station k).carriedIn l then s.uncarry k l
  else
    let held := (s.station k).heldOn l
    ((s.pressSteps k l t).pressMines k l t).examineAll k held

/-- R93: a WITHDRAWN settles the HELD deadline of its lane. -/
def State.withdrawHold (k : StationId) (l : LaneId) (s : State) : State :=
  if s.playing k then
    match (s.station k).holdOn l with
    | some item =>
      match item.deadline with
      | .held _ => s.giveHoldLost k item.seq
      | .none | .pending _ => s
    | none => s
  else s

/-- Whether the lane's hold has a HELD deadline. -/
def Station.heldDeadline (st : Station) (l : LaneId) : Bool :=
  (st.holdOn l).any fun item =>
    match item.deadline with
    | .held _ => true
    | .none | .pending _ => false

/-- R75, R78, R93: a WITHDRAWN in a RUNNING song. Where both a held close and a held deadline wait on the lane, either is
taken first (log 19). -/
def State.withdrawn (k : StationId) (l : LaneId) (s : State) : State :=
  if LaneSet.has (s.station k).carriedIn l then s.uncarry k l
  else
    let held := (s.station k).heldOn l
    if (s.station k).heldDeadline l && !held.isEmpty then
      match s.choose 2 with
      | (0, s) => (s.examineAll k held).withdrawHold k l
      | (_, s) => (s.withdrawHold k l).examineAll k held
    else (s.examineAll k held).withdrawHold k l

/-- R91: a RELEASE in a RUNNING song. -/
def State.released (k : StationId) (l : LaneId) (t : Int) (s : State) : State :=
  match (s.station k).holdOn l with
  | some item => s.releaseHold k item t
  | none => s

/-- R67, R72 to R78, R91: a contact event of station k taken while the song is RUNNING. -/
def State.contactRunning (e : ContactEvent) (s : State) : State :=
  match e.kind with
  | .press => s.pressed e.station e.lane e.time
  | .release _ => s.released e.station e.lane e.time
  | .withdrawn => s.withdrawn e.station e.lane

/-- R87, R88: a lane leaves PRESSING during a halt: no held item waits on it any more, and none is examined. -/
def Station.leavePressing (l : LaneId) (st : Station) : Station :=
  { st with heldCloses := st.heldCloses.map fun h => { h with waits := LaneSet.without h.waits l } }

/-- R87, R97: a contact event taken while the song is HALTED. -/
def State.contactHalted (e : ContactEvent) (s : State) : State :=
  match e.kind with
  | .press | .withdrawn => (s.uncarry e.station e.lane).mapStation e.station (Station.leavePressing e.lane)
  | .release _ => s

/-- R67, R128: a contact event as the engine of its station takes it; in every other state it is ignored. -/
def State.takeContact (e : ContactEvent) (s : State) : State :=
  if s.playing e.station then
    match s.song.state with
    | .running => (s.contactRunning e).testPush e.station
    | .halted => (s.contactHalted e).testPush e.station
    | .stopped | .armed | .finished => s
  else s

/-! ### The start edge and the resume (R68, R88) -/

/-- R68: the lanes that are PRESSING as the station enters PLAYING are carried in, and the engine takes the start frame. -/
def State.engineStart (k : StationId) (s : State) : State :=
  (s.mapStation k fun st => { st with carriedIn := laneSetOf fun l => s.lanePressing k l }).songTimeChange k

/-- R88, R97, R102, R105: the engine takes the resume. -/
def State.resume (k : StationId) (s : State) : State :=
  if s.playing k then
    let s := (s.openPhase k).markerPhase k
    let s := ((s.station k).heldCloses.map HeldClose.seq).foldl (fun s seq => s.examineAtResume k seq) s
    (if s.playing k then s.resumeHolds k else s).testPush k
  else s

end Sys2Proof.Machine
end

