-- ==== Sys2Proof/Machine/Intake.lean ====
section
/-! DEFINITION. Stations and chart intake (chapter 03): starvation, the checks and the acceptance of a note record, and the
station requests; with WINDOWS_SET (R65), which recomputes what intake keeps. -/

namespace Sys2Proof.Machine

/-! ### Starvation (R55, R56) -/

/-- R55: the lookahead of station k, formed exactly. -/
def State.lookahead (s : State) (k : StationId) : Int :=
  (s.station k).intake.lastFrame.getD s.song.startFrame - s.now

/-- R55, R56: starvation is evaluated for station k. -/
def State.starvable (s : State) (k : StationId) : Bool := s.playing k && !(s.station k).endAccepted

/-- R55: the starving flag is about to be set. -/
def State.starvingDue (s : State) (k : StationId) : Bool :=
  s.starvable k && !(s.station k).starving && decide (s.lookahead k < Int.ofNat (s.station k).lookahead)

/-- R56: the starved flag is about to be set. -/
def State.starvedDue (s : State) (k : StationId) : Bool :=
  s.starvable k && !(s.station k).starved && decide ((s.station k).intake.lastClose.getD s.song.startFrame < s.now)

/-- R55, R56: the flags are set where they are due, and the notices offered; no order between the two is given. -/
def State.evalStarvation (k : StationId) (s : State) : State :=
  let starving := s.starvingDue k
  let starved := s.starvedDue k
  let notices := (if starving then [s.noticeOf (.starving k (clampFrame (s.lookahead k)))] else []) ++
    (if starved then [s.noticeOf (.starved k)] else [])
  (s.mapStation k fun st =>
    { st with starving := st.starving || starving, starved := st.starved || starved }).offerAny notices

/-- R55, R56: what an accepted record clears. -/
def State.clearStarvation (k : StationId) (s : State) : State :=
  let ahead := decide (Int.ofNat (s.station k).lookahead ≤ s.lookahead k)
  let reached := decide (0 ≤ s.lookahead k)
  if s.starvable k then
    s.mapStation k fun st => { st with starving := st.starving && !ahead, starved := st.starved && !reached }
  else s

/-! ### The checks of a record (R47) -/

/-- A record that has passed checks 1 to 3: its kind, body and frame. -/
structure Incoming where
  kind : NoteKind
  tick : Nat
  frame : Int
  body : EntryBody
  deriving DecidableEq, Repr

/-- R47, check 1: the fields of a record of a known kind. -/
inductive NoteFields where
  | tap (chartLane : LaneId)
  | hold (chartLane : LaneId) (tailTick : Nat)
  | mine (chartLane : LaneId)
  | cueMark (channel : ChannelId)
  | endMark
  deriving DecidableEq, Repr

/-- R47, check 1. -/
def noteFieldsOf (r : NoteRec) : Option NoteFields :=
  match noteKindOf r.kind with
  | none => none
  | some .tap => (laneOf r.place).map NoteFields.tap
  | some .hold =>
    if 1 ≤ r.length.toNat ∧ r.tick.toNat + r.length.toNat ≤ maxWord then
      (laneOf r.place).map fun l => NoteFields.hold l (r.tick.toNat + r.length.toNat)
    else none
  | some .mine => (laneOf r.place).map NoteFields.mine
  | some .cueMark => (channelOf r.place).map NoteFields.cueMark
  | some .endMark => some .endMark

/-- R47, checks 2 and 3: the conversion of a tick, or the refusal. -/
def frameOrRefusal (map : List Segment) (tick : Nat) : Except Code Int :=
  match convert map tick with
  | .noMap => .error .noTempo
  | .outOfRange => .error .badValue
  | .frame f => .ok f

/-- R47, checks 1 to 3, with the lane map of R39. -/
def incomingOf (map : List Segment) (lanes : LaneMap) (r : NoteRec) : Except Code Incoming :=
  match noteFieldsOf r with
  | none => .error .badValue
  | some fields =>
    match frameOrRefusal map r.tick.toNat with
    | .error c => .error c
    | .ok frame =>
      match fields with
      | .tap c => .ok { kind := .tap, tick := r.tick.toNat, frame := frame, body := .tap c (lanes.apply c) }
      | .hold c tailTick =>
        match frameOrRefusal map tailTick with
        | .error e => .error e
        | .ok tail =>
          .ok { kind := .hold, tick := r.tick.toNat, frame := frame, body := .hold c (lanes.apply c) tailTick tail }
      | .mine c => .ok { kind := .mine, tick := r.tick.toNat, frame := frame, body := .mine c (lanes.apply c) }
      | .cueMark channel => .ok { kind := .cueMark, tick := r.tick.toNat, frame := frame, body := .cueMark channel }
      | .endMark => .ok { kind := .endMark, tick := r.tick.toNat, frame := frame, body := .endMark }

/-- The queue entry a record would become (R49). -/
def Incoming.entry (n : Incoming) (seq : Nat) (noteId : Half) : Entry :=
  { seq := seq, noteId := noteId, tick := n.tick, frame := n.frame, body := n.body, chord := none, state := .queued }

/-- Whether a record is a TAP or a HOLD. -/
def Incoming.isStep (n : Incoming) : Bool := decide (n.kind = .tap ∨ n.kind = .hold)

/-- The mapped lane of a TAP, HOLD or MINE record. -/
def Incoming.lane (n : Incoming) : Option LaneId :=
  match n.body with
  | .tap _ l | .hold _ l _ _ | .mine _ l => some l
  | .cueMark _ | .endMark => none

/-- The record's tick equals the last accepted tick. -/
def Intake.sameTick (t : Intake) (n : Incoming) : Bool := decide (t.lastTick = some n.tick)

/-- R54: the record could no longer be judged at a song time. -/
def Incoming.late (w : Windows) (now : Int) (n : Incoming) : Bool :=
  match n.kind with
  | .tap | .hold => decide (n.frame + Int.ofNat w.w4 ≤ now)
  | .mine => decide (n.frame + Int.ofNat w.wm ≤ now)
  | .cueMark | .endMark => decide (n.frame < now)

/-- R47, checks 4 to 9 and 11 against the station's record; `late` is the outcome of check 10. -/
def Station.refusal (st : Station) (late : Bool) (n : Incoming) : Option Code :=
  let t := st.intake
  if n.lane.any fun l => !LaneSet.has st.laneMask l then some .lane
  else if t.lastTick.any fun last => decide (n.tick < last) then some .order
  else if t.sameTick n && n.lane.any fun l => LaneSet.has t.lastLanes l then some .duplicate
  else if n.lane.any fun l => (t.tails[l]).any fun tail => decide (n.tick ≤ tail) then some .overlap
  else if n.isStep && t.sameTick n && decide (4 ≤ t.chordCount) then some .chordLimit
  else if n.isStep && decide (t.sealedTick = some n.tick) then some .chordClosed
  else if late then some .late
  else if 192 ≤ st.queue.length then some .full
  else none

/-- R47: the checks of one record, in their order. -/
def State.checkRecord (s : State) (k : StationId) (r : NoteRec) : Except Code Incoming :=
  let st := s.station k
  if st.endAccepted then .error .ended
  else
    match incomingOf s.clock.map st.laneMap r with
    | .error c => .error c
    | .ok n =>
      match st.refusal (s.playing k && n.late s.windows s.now) n with
      | some c => .error c
      | none => .ok n

/-! ### The acceptance of a record (R48 to R53) -/

/-- R48, R65: the last close frame of a kind at a frame. -/
def NoteKind.closeFrame (w : Windows) (frame : Int) : NoteKind → Int
  | .tap | .hold => frame + Int.ofNat w.w4
  | .mine => frame + Int.ofNat w.wm
  | .cueMark | .endMark => frame

/-- R61: the accepted count of a kind. -/
def NoteKind.acceptedCount : NoteKind → CountKind
  | .tap | .hold => .stepsAccepted
  | .mine => .minesAccepted
  | .cueMark | .endMark => .markersAccepted

/-- R48: the intake record after a record has been accepted. -/
def Intake.accept (w : Windows) (n : Incoming) (t : Intake) : Intake :=
  let lanes := if t.sameTick n then t.lastLanes else 0
  let count := if t.sameTick n then t.chordCount else 0
  { t with
    lastTick := some n.tick,
    lastFrame := some n.frame,
    lastKind := some n.kind,
    lastClose := some (n.kind.closeFrame w n.frame),
    lastLanes :=
      match n.lane with
      | some l => lanes ||| LaneSet.single l
      | none => lanes,
    chordCount := if n.isStep then count + 1 else count,
    tails :=
      match n.body with
      | .hold _ l tailTick _ => t.tails.set l (some tailTick)
      | .tap _ _ | .mine _ _ | .cueMark _ | .endMark => t.tails,
    nextSeq := t.nextSeq + 1 }

/-- R52: the chord group formed or extended at a tick. -/
def groupChord (tick count : Nat) (queue : List Entry) : List Entry :=
  let members := queue.filter fun e => e.isStep && decide (e.tick = tick)
  let group : ChordGroup := { count := count, lanes := lanesOf members }
  queue.map fun e => if e.isStep && decide (e.tick = tick) then { e with chord := some group } else e

/-- R48 to R50, R52: a record accepted: the entry at the back of the queue, the intake record, the chord, the flags. -/
def Station.accept (w : Windows) (noteId : Half) (n : Incoming) (st : Station) : Station :=
  let intake := st.intake.accept w n
  let queue := st.queue ++ [n.entry st.intake.nextSeq noteId]
  let ends := decide (n.kind = .endMark)
  { st with
    intake := intake,
    queue := if n.isStep && decide (2 ≤ intake.chordCount) then groupChord n.tick intake.chordCount queue else queue,
    endAccepted := st.endAccepted || ends,
    starving := st.starving && !ends,
    starved := st.starved && !ends }

/-- R49, R53, R105: what is due at once for an entry accepted while the station is PLAYING and the song RUNNING: its
window opens, without the standing test for a mine (R99), or the marker is taken. -/
def State.openAtIntake (k : StationId) (seq : Nat) (s : State) : State :=
  if s.playing k && decide (s.song.state = .running) then
    match (s.station k).entry? seq with
    | none => s
    | some e =>
      if s.now < e.openFrame s.windows then s
      else if e.isStep then s.mapStation k (Station.openSteps e)
      else if e.isMine then s.mapStation k (Station.mapEntries [seq] fun x => { x with state := .opened })
      else s.takeMarker k e
  else s

/-- R49: a record that has passed every check is accepted. -/
def State.acceptRecord (k : StationId) (noteId : Half) (n : Incoming) (s : State) : State :=
  let seq := (s.station k).intake.nextSeq
  let s := (s.mapStation k (Station.accept s.windows noteId n)).countUp k n.kind.acceptedCount 1
  ((s.openAtIntake k seq).clearStarvation k).evalStarvation k

/-- R46, R47: the records of a request taken in order from an index: the state, the count taken, and the refusal. -/
def State.takeRecords (k : StationId) (baseId : Half) : List NoteRec → Nat → State → State × Nat × Option Code
  | [], index, s => (s, index, none)
  | r :: rest, index, s =>
    match s.checkRecord k r with
    | .error .late => (s.countUp k .lateRefusals 1, index, some .late)
    | .error c => (s, index, some c)
    | .ok n => State.takeRecords k baseId rest (index + 1) (s.acceptRecord k (baseId + BitVec.ofNat 16 index) n)

/-- R46: NOTES_PUT; a pending push is tested at its end (R128). What the intake posts is delivered behind it (log 33). -/
def takeNotesPut (station : Byte) (baseId : Half) (records : List NoteRec) (s : State) : State × Reply :=
  let i := Instr.notesPut station baseId records
  match stationOf station with
  | none => (s, replyFor i .badValue [])
  | some k =>
    match (s.station k).state with
    | .vacant | .cleared | .failed | .aborted => (s, replyFor i .state [])
    | .loaded | .playing =>
      if (s.station k).endAccepted then (s, replyFor i .ended [])
      else
        let (t, taken, refusal) := (s.withOutbox (some [])).takeRecords k baseId records 0
        let s := (t.testPush k).closeOutbox s.outbox
        match refusal with
        | none => (s, replyFor i .ok (num8 taken))
        | some c => (s, replyFor i .partialTaken (num8 taken ++ num8 taken ++ [c.byte]))

/-! ### The station requests -/

/-- R40, R41, R42: no chart: an empty queue, no counts, clear flags and an empty intake record. -/
def Station.noChart (st : Station) : Station :=
  { st.emptied with
    intake := Intake.empty, endAccepted := false, endPassed := false, starving := false, starved := false,
    counts := zeroCounts }

/-- R38: the settings of STATION_SET, where they pass its third check. -/
def settingsOf (r : StationRec) (st : Station) : Option Station :=
  match laneMapOf r.laneMap, flagOf r.noFail, reportLevelOf r.reportLevel with
  | some map, some noFail, some level =>
    if laneMaskOf r.laneMask ≠ 0 ∧ 1 ≤ r.lookahead.toNat ∧ r.lookahead.toNat ≤ 16777216 then
      some { st with laneMask := laneMaskOf r.laneMask, laneMap := map, noFail := noFail, reportLevel := level,
                     lookahead := r.lookahead.toNat }
    else none
  | _, _, _ => none

/-- R38: whether the station takes settings. -/
def Station.takesSettings (st : Station) : Bool :=
  match st.state with
  | .vacant => true
  | .loaded => st.queue.isEmpty
  | .playing | .cleared | .failed | .aborted => false

/-- R38: STATION_SET. -/
def takeStationSet (r : StationRec) (s : State) : State × Reply :=
  let i := Instr.stationSet r
  match stationOf r.station with
  | none => (s, replyFor i .badValue [])
  | some k =>
    if !(s.station k).takesSettings then (s, replyFor i .state [])
    else
      match settingsOf r (s.station k) with
      | none => (s, replyFor i .badValue [])
      | some st => (s.mapStation k fun _ => st, replyFor i .ok [])

/-- R40, R123: the score context of a FRESH open. -/
def ScoreContext.fresh (lifeStart : Nat) : ScoreContext := { ScoreContext.zero with life := lifeStart }

/-- R40: the station after CHART_OPEN. -/
def Station.opened (lifeStart : Nat) (mode : OpenMode) (st : Station) : Station :=
  { st.noChart with
    state := .loaded,
    context :=
      match mode with
      | .fresh => ScoreContext.fresh lifeStart
      | .carry => st.context }

/-- R40: CHART_OPEN. -/
def takeChartOpen (station : Byte) (mode : Byte) (s : State) : State × Reply :=
  let i := Instr.chartOpen station mode
  match stationOf station, openModeOf mode with
  | some k, some m =>
    match (s.station k).state with
    | .loaded | .playing => (s, replyFor i .state [])
    | .vacant | .cleared | .failed | .aborted =>
      if s.clock.map.isEmpty then (s, replyFor i .noTempo [])
      else (s.mapStation k (Station.opened s.scoring.lifeStart m), replyFor i .ok [])
  | _, _ => (s, replyFor i .badValue [])

/-- R41: CHART_CLOSE; the drain counts nothing, since the chart counts become 0. -/
def takeChartClose (station : Byte) (s : State) : State × Reply :=
  let i := Instr.chartClose station
  match stationOf station with
  | none => (s, replyFor i .badValue [])
  | some k =>
    match (s.station k).state with
    | .vacant | .playing => (s, replyFor i .state [])
    | .loaded | .cleared | .failed | .aborted =>
      (s.mapStation k fun st => { st.noChart with state := .vacant }, replyFor i .ok [])

/-- R62: STATION_STATUS. -/
def takeStationStatus (station : Byte) (s : State) : State × Reply :=
  let i := Instr.stationStatus station
  match stationOf station with
  | none => (s, replyFor i .badValue [])
  | some k => (s, replyFor i .ok (s.stationStatusBytes k))

/-- R42, R123, R124, R130: the station after a clear; its settings are kept. -/
def Station.cleared (st : Station) : Station :=
  { st.noChart with state := .vacant, context := ScoreContext.zero, stack := [], pushPending := false }

/-- R42: STATION_CLEAR. A PLAYING station passes through ABORTED, whose end event goes to song control; a pending push is
cancelled. -/
def takeStationClear (station : Byte) (s : State) : State × Reply :=
  let i := Instr.stationClear station
  match stationOf station with
  | none => (s, replyFor i .badValue [])
  | some k =>
    let cancelled := if (s.station k).pushPending then [s.noticeOf (.checkpointCancelled k)] else []
    let s := if s.playing k then s.handEnd k .aborted else s
    ((s.mapStation k Station.cleared).offerNowOrLater cancelled, replyFor i .ok [])

/-- R63, R66, R123, R130: a station at a system reset; its settings are kept. -/
def Station.systemReset (st : Station) : Station := st.cleared

/-! ### WINDOWS_SET (R65) -/

/-- R65: the widths of WINDOWS_SET, where they pass its second check. -/
def windowsOf (r : WindowsRec) : Option Windows :=
  if 1 ≤ r.w1.toNat ∧ r.w1.toNat < r.w2.toNat ∧ r.w2.toNat < r.w3.toNat ∧ r.w3.toNat < r.w4.toNat ∧ 1 ≤ r.wm.toNat ∧
      1 ≤ r.lg.toNat ∧ r.lg.toNat ≤ 16777216 then
    some { w1 := r.w1.toNat, w2 := r.w2.toNat, w3 := r.w3.toNat, w4 := r.w4.toNat, wm := r.wm.toNat,
           lg := r.lg.toNat }
  else none

/-- R65: the last close frame recomputed with new widths. -/
def Intake.rewindow (w : Windows) (t : Intake) : Intake :=
  match t.lastFrame, t.lastKind with
  | some frame, some kind => { t with lastClose := some (kind.closeFrame w frame) }
  | _, _ => t

/-- R65: WINDOWS_SET. -/
def takeWindowsSet (r : WindowsRec) (s : State) : State × Reply :=
  let i := Instr.windowsSet r
  if s.song.state.active then (s, replyFor i .state [])
  else
    match windowsOf r with
    | none => (s, replyFor i .badValue [])
    | some w =>
      ({ s with windows := w, stations := s.stations.map fun st => { st with intake := st.intake.rewindow w } },
        replyFor i .ok [])

end Sys2Proof.Machine
end

