-- ==== Sys2Proof/Machine/Panel.lean ====
section
/-! DEFINITION. The scanner (chapter 02): levels, the contact state machine, device presence, stuck panels, calibration,
and the panel requests. -/

namespace Sys2Proof.Machine

/-! ### One channel at a round end -/

/-- A contact event of one channel before it is addressed to a station and lane: its kind and time. -/
abbrev ChannelEvent := ContactKind × Int

/-- R24: the press is confirmed with its crossing time. -/
def Channel.confirmPress (crossing : Int) (c : Channel) : Channel × Option ChannelEvent :=
  ({ c with contact := .down, stuckCount := 0, crossing := none }, some (.press, crossing))

/-- R25: the release is confirmed with its crossing time. -/
def Channel.confirmRelease (crossing : Int) (c : Channel) : Channel × Option ChannelEvent :=
  ({ c with contact := .up, stuckCount := 0, crossing := none }, some (.release .confirmed, crossing))

/-- R23: the reading and the level it gives, floored at 0. -/
def Channel.withReading (reading : Nat) (c : Channel) : Channel :=
  { c with reading := reading, level := reading - c.baseline }

/-- R24, R25, R28: the contact state machine takes the channel's level, at a round of the given stamp. -/
def Channel.takeLevel (stamp : Int) (c : Channel) : Channel × Option ChannelEvent :=
  match c.contact with
  | .up =>
    if c.level < c.p then (c, none)
    else if c.dp = 1 then { c with dwell := 1 }.confirmPress stamp
    else ({ c with contact := .pressing, dwell := 1, crossing := some stamp }, none)
  | .pressing =>
    if c.level < c.p then ({ c with contact := .up, dwell := 0, crossing := none }, some (.withdrawn, stamp))
    else if c.dp ≤ c.dwell + 1 then { c with dwell := c.dwell + 1 }.confirmPress (c.crossing.getD stamp)
    else ({ c with dwell := c.dwell + 1 }, none)
  | .down =>
    if c.q ≤ c.level then (c, none)
    else if c.dr = 1 then { c with dwell := 1 }.confirmRelease stamp
    else ({ c with contact := .releasing, dwell := 1, crossing := some stamp }, none)
  | .releasing =>
    if c.q ≤ c.level then ({ c with contact := .down, dwell := 0, crossing := none }, none)
    else if c.dr ≤ c.dwell + 1 then { c with dwell := c.dwell + 1 }.confirmRelease (c.crossing.getD stamp)
    else ({ c with dwell := c.dwell + 1 }, none)
  | .stuck =>
    if c.q ≤ c.level then ({ c with dwell := 0 }, none)
    else if c.dr ≤ c.dwell + 1 then ({ c with contact := .up, dwell := c.dwell + 1, stuckCount := 0 }, none)
    else ({ c with dwell := c.dwell + 1 }, none)
  | .fault => (c, none)

/-- R27: the stuck check finds the channel in DOWN or RELEASING with a stuck measure count of 16. -/
def Channel.stuckDue (c : Channel) : Bool := c.contact.isDown && decide (16 ≤ c.stuckCount)

/-- R28: entry into STUCK. -/
def Channel.enterStuck (c : Channel) : Channel := { c with contact := .stuck, dwell := 0, crossing := none }

/-- R27, R28: the stuck check; true when the channel enters STUCK. -/
def Channel.stuckCheck (stamp : Int) (r : Channel × Option ChannelEvent) : Channel × Option ChannelEvent × Bool :=
  if r.1.stuckDue then (r.1.enterStuck, some (.release .stuck, stamp), true) else (r.1, r.2, false)

/-- R28: entry into FAULT and the event it sends. -/
def Channel.enterFault (stamp : Int) (c : Channel) : Channel × Option ChannelEvent :=
  ({ c with contact := .fault, dwell := 0, crossing := none, stuckCount := 0 },
    match c.contact with
    | .down | .releasing => some (.release .fault, stamp)
    | .pressing => some (.withdrawn, stamp)
    | .up | .stuck | .fault => none)

/-- R22: a channel leaves FAULT for UP when its device returns. -/
def Channel.leaveFault (c : Channel) : Channel := { c with contact := .up, dwell := 0, crossing := none, stuckCount := 0 }

/-! ### Device presence (R21, R22) -/

/-- What a round does to a device. -/
inductive DeviceTurn where
  /-- PRESENT and answered: its readings go to its channels -/
  | reads
  /-- PRESENT and unanswered for the first or second time: its channels pause -/
  | misses
  /-- the third unanswered round: the device becomes ABSENT -/
  | lost
  /-- ABSENT, and still so -/
  | away
  /-- the eighth answered round: the device becomes PRESENT -/
  | returns
  deriving DecidableEq, Repr

/-- R21, R22: the turn of a device by its record and whether its transaction was answered. -/
def Device.turn (d : Device) (answered : Bool) : DeviceTurn :=
  match d.presence with
  | .present => if answered then .reads else if d.unanswered < 2 then .misses else .lost
  | .absent => if answered && decide (7 ≤ d.answered) then .returns else .away

/-- R21, R22: the presence record after the round. A PRESENT device's answered count stands as it is, at 0 or at the 8 of
its return (log 39). -/
def Device.update (d : Device) (answered : Bool) : Device :=
  match d.turn answered with
  | .reads => { d with unanswered := 0 }
  | .misses => { d with unanswered := d.unanswered + 1 }
  | .lost => { presence := .absent, unanswered := 3, answered := 0 }
  | .away => { d with answered := if answered then d.answered + 1 else 0 }
  | .returns => { presence := .present, unanswered := 0, answered := 8 }

/-! ### The round end (R19) -/

/-- The result of a round end for one channel: the channel, its event, and whether it entered STUCK. -/
abbrev ChannelTurn := Channel × Option ChannelEvent × Bool

/-- R19: one channel at the round end. A channel whose device is lost in this round and which is due for STUCK takes the
stuck check first when `stuckFirst` says so (log 17). -/
def Channel.roundEnd (stuckFirst : Bool) (stamp : Int) (turn : DeviceTurn) (reading : Nat) (c : Channel) : ChannelTurn :=
  match turn with
  | .reads => Channel.stuckCheck stamp ((c.withReading reading).takeLevel stamp)
  | .misses => Channel.stuckCheck stamp (c, none)
  | .lost =>
    if stuckFirst && c.stuckDue then
      let (c', e, stuck) := Channel.stuckCheck stamp (c, none)
      ((c'.enterFault stamp).1, e, stuck)
    else
      let (c', e) := c.enterFault stamp
      (c', e, false)
  | .away => (c, none, false)
  | .returns => (c.leaveFault, none, false)

/-- The turn of device d in this round. -/
def Scanner.turnOf (sc : Scanner) (data : RoundData) (d : DeviceId) : DeviceTurn :=
  (sc.devices[d]).turn ((data.of d).answered d)

/-- The turn of a channel's device. -/
def Scanner.channelTurn (sc : Scanner) (data : RoundData) (c : PanelId) : DeviceTurn := sc.turnOf data (deviceOf c)

/-- R19: the round end of one channel. -/
def Scanner.channelEnd (sc : Scanner) (stuckFirst : Bool) (stamp : Int) (data : RoundData) (c : PanelId) : ChannelTurn :=
  (sc.channels[c]).roundEnd stuckFirst stamp (sc.channelTurn data c) ((data.of (deviceOf c)).reading (inputOf c))

/-- The panel channels in ascending order, that is by station and lane. -/
def allPanels : List PanelId := allStations.flatMap fun k => allLanes.map fun l => panelOf k l

/-- The devices in ascending order. -/
def allDevices : List DeviceId := [0, 1, 2, 3, 4]

/-- R21, R22: the lanes of station k on device d. -/
def lanesOn (k : StationId) (d : DeviceId) : LaneSet := laneSetOf fun l => decide (deviceOf (panelOf k l) = d)

/-- R31: a lane of a running job takes the round. -/
def LaneSum.takeRound (turn : DeviceTurn) (reading : Nat) (a : LaneSum) : LaneSum :=
  match turn with
  | .reads => { a with sum := a.sum + reading, min := Nat.min a.min reading, max := Nat.max a.max reading }
  | .misses | .lost | .away | .returns => { a with unsettled := true }

/-- R31: a running job of station k takes the round, unless the round was in progress when the job began (R30). -/
def Scanner.jobRound (sc : Scanner) (data : RoundData) (k : StationId) (j : CalJob) : CalJob :=
  if j.skip then { j with skip := false }
  else
    { j with
      rounds := j.rounds + 1,
      lanes := Vector.ofFn fun l : LaneId =>
        let c := panelOf k l
        (j.lanes[l]).takeRound (sc.channelTurn data c) ((data.of (deviceOf c)).reading (inputOf c)) }

/-- R31: a lane is settled at the job's end when it was never marked and its spread does not exceed its Q. -/
def LaneSum.settled (q : Nat) (a : LaneSum) : Bool := !a.unsettled && decide (a.max - a.min ≤ q)

/-- R31: the unsettled lanes of station k at the end of a job, by the Q in force. -/
def Scanner.unsettledLanes (sc : Scanner) (k : StationId) (j : CalJob) : LaneSet :=
  laneSetOf fun l => !(j.lanes[l]).settled (sc.channels[panelOf k l]).q

/-- R31: the new baseline of a lane, its sum divided by 64, where the lane is settled. -/
def Scanner.setBaselines (sc : Scanner) (k : StationId) (j : CalJob) : Scanner :=
  { sc with
    channels := allLanes.foldl (fun chs l =>
      let c := chs[panelOf k l]
      if (j.lanes[l]).settled c.q then chs.set (panelOf k l) { c with baseline := (j.lanes[l]).sum / 64 } else chs)
      sc.channels }

/-- Station k's record changed by f. -/
def Scanner.mapGroup (k : StationId) (f : PanelGroup → PanelGroup) (sc : Scanner) : Scanner :=
  { sc with groups := sc.groups.set k (f sc.groups[k]) }

/-- R31: the job of station k at a round end: the round is added, and at 64 rounds the job ends. `turns` is the scanner
as the round found it; the result is the scanner and the mask that CALIBRATED carries. -/
def Scanner.calibrate (turns : Scanner) (data : RoundData) (k : StationId) (sc : Scanner) : Scanner × Option LaneSet :=
  match (sc.groups[k]).job with
  | none => (sc, none)
  | some j =>
    let j := turns.jobRound data k j
    if 64 ≤ j.rounds then
      let unsettled := sc.unsettledLanes k j
      ((sc.setBaselines k j).mapGroup k fun g =>
        { job := none, uncalibrated := if unsettled = 0 then false else g.uncalibrated, lastUnsettled := unsettled },
        some unsettled)
    else (sc.mapGroup k fun g => { g with job := some j }, none)

/-- R31: the jobs of all four stations. -/
def Scanner.calibrateAll (turns : Scanner) (data : RoundData) : List StationId → Scanner → Scanner × List (StationId × LaneSet)
  | [], sc => (sc, [])
  | k :: rest, sc =>
    let (sc, mask) := turns.calibrate data k sc
    let (sc, masks) := turns.calibrateAll data rest sc
    (sc, (mask.toList.map fun m => (k, m)) ++ masks)

/-- R19, R21 to R28, R31: what a round end does to the scanner. -/
structure RoundOutcome where
  scanner : Scanner
  /-- the contact events, by station in ascending lane order (R26) -/
  events : List ContactEvent
  /-- the notices of the contact work: PANEL_STUCK, PANEL_FAULT and PANEL_OK (R21, R22, R28) -/
  notices : List Notice
  /-- the CALIBRATED notices of the jobs that end at this round (R31) -/
  calibrated : List Notice
  deriving DecidableEq, Repr

/-- R26: the contact event of a channel, addressed. -/
def contactEvent (c : PanelId) (e : ChannelEvent) : ContactEvent :=
  { station := stationOfPanel c, lane := laneOfPanel c, kind := e.1, time := e.2 }

/-- R21, R22: the notices of a device's turn, one for each station with a channel on it. -/
def deviceNotices (stamp : Int) (d : DeviceId) (turn : DeviceTurn) : List Notice :=
  let affected := allStations.filter fun k => decide (lanesOn k d ≠ 0)
  match turn with
  | .lost => affected.map fun k => .panelFault k d (lanesOn k d) stamp
  | .returns => affected.map fun k => .panelOk k d (lanesOn k d) stamp
  | .reads | .misses | .away => []

/-- R19: the round end, of a round with the given stamp that is not void. -/
def Scanner.roundEnd (sc : Scanner) (stuckFirst : Bool) (stamp : Int) (data : RoundData) : RoundOutcome :=
  let turns : Vector ChannelTurn 36 := Vector.ofFn fun c : PanelId => sc.channelEnd stuckFirst stamp data c
  let worked : Scanner :=
    { sc with
      round := none,
      channels := Vector.ofFn fun c : PanelId => (turns[c]).1,
      devices := Vector.ofFn fun d : DeviceId => (sc.devices[d]).update ((data.of d).answered d) }
  let (calibrated, masks) := sc.calibrateAll data allStations worked
  { scanner := calibrated,
    events := allPanels.filterMap fun c => (turns[c]).2.1.map (contactEvent c),
    notices :=
      (allPanels.filterMap fun c =>
        if (turns[c]).2.2 then some (.panelStuck (stationOfPanel c) (laneOfPanel c) stamp) else none) ++
      allDevices.flatMap fun d => deviceNotices stamp d (sc.turnOf data d),
    calibrated := masks.map fun m => .calibrated m.1 m.2 false stamp }

/-- Whether the order of the stuck check and of FAULT entry matters in this round (log 17). -/
def Scanner.stuckMeetsFault (sc : Scanner) (data : RoundData) : Bool :=
  allPanels.any fun c => decide (sc.channelTurn data c = .lost) && (sc.channels[c]).stuckDue

/-- R27: a measure pulse of the given number on the stuck measure counts of all channels. -/
def Scanner.takePulse (measure : Half) (sc : Scanner) : Scanner :=
  { sc with
    channels := sc.channels.map fun c =>
      let base := if measure = 1 then 0 else c.stuckCount
      { c with stuckCount := if c.contact.isDown then min 16 (base + 1) else base } }

/-- R36: the scanner at a system reset. -/
def Scanner.systemReset (sc : Scanner) : Scanner :=
  { sc with
    round := sc.round.map fun r => { r with void := true },
    channels := Vector.ofFn fun c : PanelId =>
      let ch := sc.channels[c]
      { ch with
        contact := if (sc.devices[deviceOf c]).presence = .absent then .fault else .up,
        dwell := 0, stuckCount := 0, crossing := none },
    groups := sc.groups.map fun g => { g with job := none } }

/-- R36: the end of a round that a system reset took: nothing of it is applied. It is the round that a job begun since then
does not count (R30). -/
def Scanner.endVoid (sc : Scanner) : Scanner :=
  { sc with
    round := none,
    groups := sc.groups.map fun g => { g with job := g.job.map fun j => { j with skip := false } } }

/-- R32: the running job of station k is abandoned as the station enters PLAYING. The last unsettled mask is kept (log
40). -/
def State.abandonCalibration (k : StationId) (s : State) : State × List Report :=
  match (s.scanner.groups[k]).job with
  | none => (s, [])
  | some _ =>
    (s.mapScanner fun sc => sc.mapGroup k fun g => { g with job := none },
      [s.noticeOf (.calibrated k 0 true s.now)])

/-! ### The scanner's requests -/

/-- R20: the three scan periods. -/
def scanPeriodOk (period : Nat) : Bool := decide (period = 500 ∨ period = 1000 ∨ period = 2000)

/-- R20: SCAN_SET. -/
def takeScanSet (period : Half) (s : State) : State × Reply :=
  let i := Instr.scanSet period
  if scanPeriodOk period.toNat then (s.mapScanner fun sc => { sc with period := period.toNat }, replyFor i .ok [])
  else (s, replyFor i .badValue [])

/-- R29: the value checks of PANEL_SET beside its station. -/
def PanelRecOk (r : PanelRec) : Bool :=
  decide (laneMaskOf r.laneMask ≠ 0) && decide (1 ≤ r.p.toNat ∧ r.p.toNat ≤ 1023) &&
    decide (1 ≤ r.q.toNat ∧ r.q.toNat < r.p.toNat) && decide (1 ≤ r.dp.toNat ∧ r.dp.toNat ≤ 8) &&
    decide (1 ≤ r.dr.toNat ∧ r.dr.toNat ≤ 8)

/-- R29: the four values stored in the channels of the mask. -/
def Scanner.setPanels (k : StationId) (r : PanelRec) (sc : Scanner) : Scanner :=
  { sc with
    channels := allLanes.foldl (fun chs l =>
      if LaneSet.has (laneMaskOf r.laneMask) l then
        chs.set (panelOf k l)
          { chs[panelOf k l] with p := r.p.toNat, q := r.q.toNat, dp := r.dp.toNat, dr := r.dr.toNat }
      else chs) sc.channels }

/-- R29: PANEL_SET. -/
def takePanelSet (r : PanelRec) (s : State) : State × Reply :=
  let i := Instr.panelSet r
  match stationOf r.station with
  | none => (s, replyFor i .badValue [])
  | some k =>
    if PanelRecOk r then (s.mapScanner (Scanner.setPanels k r), replyFor i .ok [])
    else (s, replyFor i .badValue [])

/-- R30: a job as it starts: sums zero, and every lane of an ABSENT device unsettled. -/
def Scanner.newJob (sc : Scanner) (k : StationId) : CalJob :=
  { rounds := 0, skip := sc.round.isSome,
    lanes := Vector.ofFn fun l : LaneId =>
      { sum := 0, min := 1023, max := 0,
        unsettled := decide ((sc.devices[deviceOf (panelOf k l)]).presence = .absent) } }

/-- R30: CALIBRATE. -/
def takeCalibrate (station : Byte) (s : State) : State × Reply :=
  let i := Instr.calibrate station
  match stationOf station with
  | none => (s, replyFor i .badValue [])
  | some k =>
    if s.playing k then (s, replyFor i .state [])
    else if (s.scanner.groups[k]).job.isSome then (s, replyFor i .busy [])
    else
      (s.mapScanner fun sc => sc.mapGroup k fun g => { g with job := some (sc.newJob k) }, replyFor i .pending [])

/-- R34: PANEL_READ. -/
def takePanelRead (station : Byte) (s : State) : State × Reply :=
  let i := Instr.panelRead station
  match stationOf station with
  | none => (s, replyFor i .badValue [])
  | some k => (s, replyFor i .ok (s.panelBytes k))

end Sys2Proof.Machine
end

