-- ==== Sys2Proof/Machine/Song.lean ====
section
/-! DEFINITION. Song control (chapter 08): abort and finish, station end events, the hand-offs of one moment taken in any
order, the counted edge, the start edge, the halt and the resume, and the song requests. -/

namespace Sys2Proof.Machine

/-! ### Abort and finish (R145, R146) -/

/-- The stations of the armed set that are PLAYING. -/
def State.armedPlaying (s : State) : List StationId :=
  allStations.filter fun k => StationSet.has s.song.armed k && s.playing k

/-- R145, R146: the song enters FINISHED: the pending abort set is emptied and the halt timer stops. -/
def Song.finish (cause : FinishCause) (haltMs : Nat) (g : Song) : Song :=
  { g with state := .finished, cause := cause, abortSet := AbortSet.empty, halt := .stopped haltMs }

/-- R145, step 2: stations entering ABORTED one after another; the reports are to be offered. -/
def abortStations : List StationId → State → State × List Report
  | [], s => (s, [])
  | k :: rest, s =>
    let (s, reports) := s.enterEnd k .aborted
    let (s, more) := abortStations rest s
    (s, reports ++ more)

/-- R149: the SONG_FINISHED notice. -/
def State.finishedNotice (s : State) : Report := s.noticeOf (.songFinished s.song.cause s.clock.measure)

/-- R145: the song is aborted. The notices of the stations' pushes and SONG_FINISHED are offered in any order. -/
def State.abortSong (cause : FinishCause) (s : State) : State :=
  let (s, reports) := abortStations s.armedPlaying s
  let s := s.mapSong (Song.finish cause (s.song.halt.ms s.refTime))
  s.offerAny (reports ++ [s.finishedNotice])

/-- R146: the natural finish. -/
def State.finishSong (s : State) : State :=
  let s := s.mapSong (Song.finish .complete (s.song.halt.ms s.refTime))
  s.offer s.finishedNotice

/-- Whether the song is RUNNING or HALTED. -/
def SongState.underWay : SongState → Bool
  | .running | .halted => true
  | .stopped | .armed | .finished => false

/-- R146: song control takes a station end event. -/
def State.takeEnd (e : EndState) (s : State) : State :=
  if s.song.state.underWay then
    if decide (e = .failed) && s.song.abortSet.onFail then s.abortSong .aborted
    else if s.armedPlaying.isEmpty then s.finishSong
    else s
  else s

/-- R144: song control takes a measure pulse of a number. -/
def State.takePulse (measure : Half) (s : State) : State :=
  if s.song.state.underWay && (s.song.abortSet.atMeasure ||
      (s.song.abortSet.atMeasureN && decide (measure = s.song.abortMeasure))) then s.abortSong .aborted
  else s

/-! ### Hand-offs of one moment -/

/-- A hand-off to one block, where the spec gives no order among several of one moment. -/
inductive HandOff where
  /-- a counted edge to the engine of a station (R106) -/
  | engine (k : StationId)
  /-- the entry into PLAYING to the engine of a station (R68) -/
  | enter (k : StationId)
  /-- the resume to the engine of a station (R142) -/
  | resume (k : StationId)
  /-- a change of song time to a station's evaluation of starvation (R55, R56) -/
  | starve (k : StationId)
  /-- the entry into PLAYING to the scanner (R32) -/
  | abandon (k : StationId)
  /-- the start to a station whose queue holds only an END_MARK that is due (R43) -/
  | startClear (k : StationId)
  /-- the SONG_START trigger to the cue engine (R139) -/
  | songStart
  /-- a measure pulse to the scanner (R27) -/
  | scannerPulse (measure : Half)
  /-- a measure pulse to song control (R144) -/
  | songPulse (measure : Half)
  /-- a measure pulse to the cue engine (R159) -/
  | cuePulse
  /-- a measure pulse to the link port (R16) -/
  | linkPulse (measure : Half)
  /-- a station end event to song control (R146) -/
  | ended (k : StationId) (e : EndState)
  /-- a report to the report queue (R180) -/
  | report (r : Report)
  deriving DecidableEq, Repr

/-- R32: the scanner takes a station's entry into PLAYING. -/
def State.abandonNow (k : StationId) (s : State) : State :=
  let (s, reports) := s.abandonCalibration k
  reports.foldl (fun s r => s.offer r) s

/-- R43: an END_MARK at or before a frame. -/
def Entry.endMarkBy (start : Int) (e : Entry) : Bool := decide (e.body = .endMark) && decide (e.frame ≤ start)

/-- R43: the END_MARK of a queue that holds nothing else leaves, and sets END-passed. -/
def Station.passEnds (start : Int) (st : Station) : Station :=
  { st with
    queue := st.queue.filter fun e => !e.endMarkBy start,
    endPassed := st.endPassed || st.queue.any (Entry.endMarkBy start) }

/-- R43: a station whose queue holds only an END_MARK that is due enters CLEARED at the start edge. -/
def State.clearAtStart (k : StationId) (s : State) : State :=
  (s.mapStation k (Station.passEnds s.now)).endStation k .cleared

/-- One hand-off taken. -/
def State.takeHandOff (h : HandOff) (s : State) : State :=
  match h with
  | .engine k => s.songTimeChange k
  | .enter k => s.engineStart k
  | .resume k => s.resume k
  | .starve k => s.evalStarvation k
  | .abandon k => s.abandonNow k
  | .startClear k => s.clearAtStart k
  | .songStart => s.raiseNow .songStart
  | .scannerPulse measure => s.mapScanner (Scanner.takePulse measure)
  | .songPulse measure => s.takePulse measure
  | .cuePulse => s.raiseNow .measure
  | .linkPulse measure => s.notify (.measure measure)
  | .ended _ e => s.takeEnd e
  | .report r => s.offer r

/-- Hand-offs taken in any order. Each block's event is computed as one whole, and what the blocks post meanwhile reaches
the report queue and the cue channels in any interleaving (R83, R166, R180, log 33). -/
def State.takeHandOffs (hs : List HandOff) (s : State) : State :=
  let (order, s) := shuffle hs.length hs s
  let (streams, s) := s.collectAll State.takeHandOff order
  s.deliver streams

/-- The station end events and the reports on their way, taken in any order together with further hand-offs. -/
def State.flushWith (more : List HandOff) (s : State) : State :=
  let due := more ++ (s.song.ends.map fun x => .ended x.1 x.2) ++ s.link.held.map .report
  ((s.mapSong fun g => { g with ends := [] }).mapLink fun l => { l with held := [] }).takeHandOffs due

/-- The station end events and the reports on their way, taken in any order. -/
def State.flush (s : State) : State := s.flushWith []

/-! ### The counted edge (R1, R14, R106, R147) -/

/-- R55, R56: the evaluation of starvation for station k, where it sets a flag. -/
def State.starveHandOffs (s : State) (k : StationId) : List HandOff :=
  if s.starvingDue k || s.starvedDue k then [.starve k] else []

/-- What a change of song time hands to a PLAYING station. -/
def State.stationHandOffs (s : State) (k : StationId) : List HandOff := s.starveHandOffs k ++ [.engine k]

/-- R15: the deliveries of a pulse to the scanner, the cue engine and the link port. -/
def pulseDeliveries (measure : Half) : List HandOff := [.scannerPulse measure, .cuePulse, .linkPulse measure]

/-- The members of a list picked by the bits of a number, and the others. -/
def pickBits {α : Type} (n : Nat) (as : List α) : List α × List α :=
  ((as.zipIdx.filter fun p => n.testBit p.2).map Prod.fst, (as.zipIdx.filter fun p => !n.testBit p.2).map Prod.fst)

/-- Some members of a list, by an open choice, and the others. -/
def State.pickSome {α : Type} (as : List α) (s : State) : (List α × List α) × State :=
  if as.isEmpty then (([], []), s)
  else
    let (c, s) := s.choose (2 ^ as.length)
    (pickBits c as, s)

/-- R1, R14, R15, R106, R147: an edge that is counted. The engines take the change of song time, and what they post arrives,
before song control takes the pulse or an end event (log 8); the other deliveries of the pulse fall among the first or the
second. -/
def State.countedEdge (s : State) : State :=
  let s := s.countFrame
  let stations := (allStations.filter s.playing).flatMap s.stationHandOffs
  if s.pulseDue then
    let s := s.firePulse
    let ((early, late), s) := s.pickSome (pulseDeliveries s.clock.measure)
    (s.takeHandOffs (stations ++ early)).flushWith (.songPulse s.clock.measure :: late)
  else (s.takeHandOffs stations).flush

/-! ### The start edge (R2, R43, R139) -/

/-- R43: the queue holds only an END_MARK at or before the start frame. -/
def Station.onlyEndMark (start : Int) (st : Station) : Bool :=
  !st.queue.isEmpty && st.queue.all (Entry.endMarkBy start)

/-- R32: the scanner's part in a station's entry into PLAYING, where a job is running. -/
def State.abandonHandOffs (s : State) (k : StationId) : List HandOff :=
  if (s.scanner.groups[k]).job.isSome then [.abandon k] else []

/-- R43: a LOADED station of the armed set that the start edge clears at once. -/
def State.clearsAtStart (s : State) (k : StationId) : Bool :=
  StationSet.has s.song.armed k && decide ((s.station k).state = .loaded) && (s.station k).onlyEndMark s.now

/-- R43: a LOADED station of the armed set that enters PLAYING at the start edge. A PLAYING station's END_MARK that is due
leaves its queue in the marker phase of its engine's start edge (R106). -/
def State.entersAtStart (s : State) (k : StationId) : Bool :=
  StationSet.has s.song.armed k && decide ((s.station k).state = .loaded) && !(s.station k).onlyEndMark s.now

/-- R43: stations enter PLAYING. -/
def State.enterPlaying (ks : List StationId) (s : State) : State :=
  ks.foldl (fun s k => s.mapStation k fun st => { st with state := .playing }) s

/-- R32, R43, R55, R56, R68: what a station's entry into PLAYING hands on. -/
def State.entryHandOffs (s : State) (k : StationId) : List HandOff :=
  s.starveHandOffs k ++ s.abandonHandOffs k ++ [.enter k]

/-- R139, steps 4 and 5: the start is handed to the stations of the armed set, and the SONG_START trigger to the cue engine.
The stations enter PLAYING first; what that hands on falls in any order (log 25). -/
def State.takeStarts (s : State) : State :=
  let entering := allStations.filter s.entersAtStart
  let clearing := allStations.filter s.clearsAtStart
  let s := s.enterPlaying entering
  s.takeHandOffs (clearing.map .startClear ++ entering.flatMap s.entryHandOffs ++ [.songStart])

/-- R19: a round in progress takes the start frame as its stamp. -/
def Scanner.restamp (stamp : Int) (sc : Scanner) : Scanner :=
  { sc with round := sc.round.map fun r => { r with stamp := stamp } }

/-- R139: the song finishes at once where no station of the armed set is PLAYING. -/
def State.finishIfNone (s : State) : State :=
  if decide (s.song.state = .running) && s.armedPlaying.isEmpty then s.finishSong else s

/-- R13, R15, R139: a pulse due at the start frame fires after every station has taken the start edge. Every block takes it
before song control takes an end event of the start edge, so that it finds the song RUNNING (log 26). Reports on their way
may be offered among its deliveries. -/
def State.startPulse (s : State) : State :=
  if s.pulseDue then
    let s := s.firePulse
    let ((early, late), s) := s.pickSome s.link.held
    (s.mapLink fun l => { l with held := late }).takeHandOffs
      (.songPulse s.clock.measure :: pulseDeliveries s.clock.measure ++ early.map .report)
  else s

/-- R2, R13, R139: the start edge. -/
def State.startEdge (s : State) : State :=
  let s := (s.startClock.mapScanner (Scanner.restamp s.song.startFrame)).mapSong fun g =>
    { g with state := .running, latch := false, halt := .stopped 0 }
  let s := s.notify (.songStarted s.song.armed)
  s.takeStarts.startPulse.flush.finishIfNone

/-! ### Halt and resume (R141 to R143) -/

/-- R143: the halt timer's length. -/
def haltLimit : Nat := 500 * cyclesPerMs

/-- R141: a watch event to ABSENT. -/
def State.clockLost (s : State) : State :=
  if s.song.state = .running then
    (s.mapSong fun g => { g with state := .halted, halt := .running s.refTime }).notify .clockLost
  else s

/-- R142, R143: the halt timer stopped by the watch event, below 500 ms. -/
def State.haltMsAtResume (s : State) : Nat := min 499 (s.song.halt.ms s.refTime)

/-- R142: a watch event to PRESENT while the song is HALTED. The resumes are handed on after CLOCK_BACK, in any order, and
every engine takes its resume before song control takes an end event that one of them raises (log 35). -/
def State.clockBack (s : State) : State :=
  let ms := s.haltMsAtResume
  let s := (s.mapSong fun g => { g with state := .running, halt := .stopped ms }).notify (.clockBack ms)
  (s.takeHandOffs (s.armedPlaying.map .resume)).flush

/-- R143: the halt timer expires. -/
def State.haltExpire (s : State) : State :=
  (s.mapSong fun g => { g with halt := .stopped 500 }).abortSong .clock

/-! ### The song requests -/

/-- R137: every station of a mask is LOADED. -/
def State.allLoaded (s : State) (mask : StationSet) : Bool :=
  allStations.all fun k => !StationSet.has mask k || decide ((s.station k).state = .loaded)

/-- R137: the song record after SONG_ARM. -/
def Song.arm (mask : StationSet) (startFrame : Int) (g : Song) : Song :=
  { g with state := .armed, armed := mask, startFrame := startFrame, latch := false, abortSet := AbortSet.empty,
           cause := .none, halt := .stopped 0 }

/-- R137: SONG_ARM. -/
def takeSongArm (mask : Byte) (startFrame : Word) (s : State) : State × Reply :=
  let i := Instr.songArm mask startFrame
  let armed := stationMaskOf mask
  if namesBeyondFour mask then (s, replyFor i .badValue [])
  else if s.song.state.active then (s, replyFor i .state [])
  else if decide (armed = 0) || !s.allLoaded armed then (s, replyFor i .state [])
  else (s.mapSong (Song.arm armed startFrame.toInt), replyFor i .ok [])

/-- R138: a start request taken while the song is ARMED sets the start latch. -/
def State.latchStart (s : State) : State :=
  if s.song.state = .armed then s.mapSong fun g => { g with latch := true } else s

/-- R138: SONG_GO. -/
def takeSongGo (s : State) : State × Reply :=
  let i := Instr.songGo
  if s.song.state = .armed then (s.latchStart, replyFor i .ok []) else (s, replyFor i .state [])

/-- R144: the disarm of an ARMED song. -/
def Song.disarm (g : Song) : Song :=
  { g with state := .stopped, armed := 0, latch := false, abortSet := AbortSet.empty }

/-- R144: SONG_ABORT. -/
def takeSongAbort (conditions : Byte) (n : Half) (s : State) : State × Reply :=
  let i := Instr.songAbort conditions n
  let set := abortSetOf conditions
  if namesBeyondFour conditions then (s, replyFor i .badValue [])
  else
    match s.song.state with
    | .stopped | .finished => (s, replyFor i .notRunning [])
    | .armed =>
      if set.now then (s.mapSong Song.disarm, replyFor i .ok [])
      else (s.mapSong fun g => { g with abortSet := set, abortMeasure := n }, replyFor i .ok [])
    | .running | .halted =>
      if set.now then (s.abortSong .aborted, replyFor i .ok [])
      else (s.mapSong fun g => { g with abortSet := set, abortMeasure := n }, replyFor i .ok [])

/-- R148: SONG_STATUS. -/
def takeSongStatus (s : State) : State × Reply := (s, replyFor .songStatus .ok s.songStatusBytes)

end Sys2Proof.Machine
end

