-- ==== Sys2Proof/Machine/Link.lean ====
section
/-! DEFINITION. The link port (chapter 10): the framer, the gap timer, link breaks, taking a frame, the transmitter, the
system reset, and the link port's own requests. -/

namespace Sys2Proof.Machine

/-! ### The framer (R172, R174, R176) -/

/-- R176: the size of the inbound buffer. -/
def inboundSize : Nat := 512

/-- R172: the greatest LEN. -/
def maxLen : Nat := 240

/-- R172: a frame in progress ends and the framer returns to HUNT; the gap timer stops (R174). -/
def LinkPort.endFrame (truncated : Bool) (l : LinkPort) : LinkPort :=
  { l with framer := .hunt, current := [], gap := .stopped,
           ended := l.ended ++ [{ bytes := l.current, truncated := truncated }] }

/-- R172: a byte stored as part of the frame in progress, with the framer's next state; the gap timer restarts (R174). -/
def LinkPort.store (now : Nat) (b : Byte) (next : Framer) (l : LinkPort) : LinkPort :=
  { l with current := l.current ++ [b], framer := next, gap := .running now }

/-- R172: the framer takes a byte that it stores. -/
def LinkPort.takeStored (now : Nat) (b : Byte) (l : LinkPort) : LinkPort :=
  match l.framer with
  | .hunt => { l with current := [b], framer := .length }
  | .length => l.store now b (.kind b.toNat)
  | .kind 0 => l.store now b (.check 2)
  | .kind (n + 1) => l.store now b (.body (n + 1))
  | .body (n + 2) => l.store now b (.body (n + 1))
  | .body _ => l.store now b (.check 2)
  | .check (n + 2) => l.store now b (.check (n + 1))
  | .check _ => (l.store now b .hunt).endFrame false

/-- R172: what the framer does with a byte: discards it, refuses it as a length, or stores it. -/
inductive FramerTurn where
  | discard
  | refuseLength
  | store
  deriving DecidableEq, Repr

/-- R172: the framer's turn at a byte. -/
def Framer.turn (f : Framer) (b : Byte) : FramerTurn :=
  match f with
  | .hunt => if b = syncByte then .store else .discard
  | .length => if b.toNat ≤ maxLen then .store else .refuseLength
  | .kind _ | .body _ | .check _ => .store

/-- R172, R176: a byte without a framing error; one that would be stored in a full buffer is dropped. -/
def LinkPort.receive (now : Nat) (b : Byte) (l : LinkPort) : LinkPort :=
  match l.framer.turn b with
  | .discard => l
  | .refuseLength => { l with framer := .hunt, current := [] }
  | .store => if l.occupancy < inboundSize then l.takeStored now b else l

/-- R174: the framer is past LENGTH, where the gap timer runs. -/
def Framer.timed : Framer → Bool
  | .kind _ | .body _ | .check _ => true
  | .hunt | .length => false

/-- R171, R174: a byte with a framing error is discarded, and suspends the gap timer while RXD stays low. -/
def LinkPort.framingError (l : LinkPort) : LinkPort :=
  { l with rxd := .low, gap := if l.framer.timed then .suspended else l.gap }

/-- R171, R172, R175: a received byte; the receiver takes none until RXD has returned high. -/
def LinkPort.receiveByte (now : Nat) (b : Byte) (framingError : Bool) (l : LinkPort) : LinkPort :=
  match l.rxd with
  | .high => if framingError then l.framingError else l.receive now b
  | .low | .broken => l

/-- The bytes of a link frame received one after another. -/
def LinkPort.receiveBytes (now : Nat) (bytes : List Byte) (l : LinkPort) : LinkPort :=
  bytes.foldl (fun l b => l.receiveByte now b false) l

/-- R174: the gap exceeds 5 ms at the first cycle beyond it. -/
def gapLimit : Nat := 5 * cyclesPerMs + 1

/-- R174: RXD returns high: a suspended gap timer restarts from zero. -/
def LinkPort.returnHigh (now : Nat) (l : LinkPort) : LinkPort :=
  { l with rxd := .high,
           gap :=
             match l.gap with
             | .suspended => .running now
             | .stopped => .stopped
             | .running since => .running since }

/-- R175: a link break, taken once. -/
def LinkPort.takeBreak (l : LinkPort) : LinkPort :=
  match l.rxd with
  | .broken => l
  | .high | .low => { l with rxd := .broken, framer := .hunt, current := [], gap := .stopped, ended := [] }

/-! ### Frames in the buffer (R177) -/

/-- R177, tests 1 to 4: what the link port finds in a frame. -/
inductive FrameTest where
  | answered (r : Reply)
  | request (i : Instr)
  deriving DecidableEq, Repr

/-- R177: the LEN byte of a stored frame. -/
def InFrame.len (f : InFrame) : Byte := f.bytes.getD 1 0

/-- R177: the KIND byte of a stored frame, absent where it was not stored. -/
def InFrame.kind (f : InFrame) : Option Byte := f.bytes[2]?

/-- R177: LEN, KIND and the payload of a complete frame: every stored byte but SYNC and the two check bytes. -/
def InFrame.covered (f : InFrame) : List Byte := (f.bytes.drop 1).take (f.bytes.length - 3)

/-- R177: the payload of a complete frame. -/
def InFrame.payload (f : InFrame) : List Byte := f.covered.drop 2

/-- R173: CHK as received. -/
def InFrame.check (f : InFrame) : List Byte := f.bytes.drop (f.bytes.length - 2)

/-- R177, tests 1 to 4. -/
def InFrame.test (f : InFrame) : FrameTest :=
  if f.truncated then .answered (rejectReply .truncated f.len f.kind)
  else if f.check ≠ be16 (crc16 f.covered) then .answered (rejectReply .badCheck f.len f.kind)
  else
    match decodeRequest (f.kind.getD 0) f.payload with
    | .unknownKind => .answered (rejectReply .unknownKind f.len f.kind)
    | .badLength => .answered (replyTo (f.kind.getD 0) .badLength [])
    | .request i => .request i

/-- R177: the link port can take a frame: the slot is empty, a frame has ended, and no reset event is due (R185). -/
def LinkPort.canTake (l : LinkPort) : Bool := l.frameDue && !l.resetDue

/-- R176, R177: the oldest ended frame leaves the buffer. -/
def LinkPort.dropFrame (l : LinkPort) : LinkPort := { l with ended := l.ended.tail }

/-! ### Replies and the transmitter (R178, R179) -/

/-- R179: the transmitter is idle with nothing to send. -/
def LinkPort.txIdle (l : LinkPort) : Bool :=
  l.tx.isNone && !l.resetDue && l.reports.isEmpty && decide (l.loss = 0) && l.slot.isNone

/-- Whether a report is ready to be sent. -/
def LinkPort.reportReady (l : LinkPort) : Bool := l.tx.isNone && (!l.reports.isEmpty || decide (0 < l.loss))

/-- R178: a reply enters the slot. -/
def LinkPort.putReply (r : Reply) (l : LinkPort) : LinkPort := { l with slot := some r }

/-- R178, R179: the reply of a request enters the slot at the end of the event that the request is, and the transmitter
chooses. Where the event also made a report ready and the transmitter was idle before it, either is taken first. -/
def State.finishReply (idleBefore : Bool) (r : Reply) (s : State) : State :=
  let s := s.flush
  if idleBefore && s.link.reportReady then
    match s.choose 2 with
    | (0, s) => (s.mapLink (LinkPort.putReply r)).settle
    | (_, s) => (s.mapLink fun l => l.beginReport.putReply r).settle
  else (s.mapLink (LinkPort.putReply r)).settle

/-- A request handed to its block (test 5 of R177) and answered. -/
def State.answer (take : State → State × Reply) (s : State) : State :=
  let (t, r) := take s
  t.finishReply s.link.txIdle r

/-- The end of every event that is not a request: what is on its way is taken, and the transmitter chooses. -/
def State.finish (s : State) : State := s.flush.settle

/-- R178, R179, R185: the transmitter finishes a link frame; nothing where it is idle (log 32). -/
def State.transmitDone (s : State) : State :=
  match s.link.tx with
  | none => s
  | some (.reply r) =>
    (s.mapLink fun l => { l with tx := none, slot := none, resetDue := l.resetDue || r.thenReset }).settle
  | some (.lost _) | some (.report _) => (s.mapLink fun l => { l with tx := none }).settle

/-! ### Resets (R17, R36, R63, R123, R130, R150, R170, R185, R186) -/

/-- R185: the link port at a system reset. -/
def LinkPort.systemReset (l : LinkPort) : LinkPort :=
  { l with slot := none, reports := [], loss := 0, resetDue := false }

/-- R185: every block reset as its chapter states; the shared tables are kept. -/
def State.systemReset (s : State) : State :=
  { s with
    clock := SongClock.reset,
    scanner := s.scanner.systemReset,
    stations := s.stations.map Station.systemReset,
    song := Song.reset,
    cue := s.cue.systemReset,
    link := s.link.systemReset }

/-- R186: the part after a pin reset with the straps given; what waits outside the part and the free-value fields stay.
RXD is high after it whatever it was before (log 38). -/
def State.pinReset (straps : BitVec 2) (s : State) : State :=
  { State.reset with
    pending := s.pending, choices := s.choices, choiceCount := s.choiceCount,
    link := LinkPort.reset (LinkRate.ofStraps straps) }

/-! ### The link port's requests -/

/-- R184: IDENTIFY. -/
def takeIdentify (s : State) : State × Reply := (s, replyFor .identify .ok identityBytes)

/-- R185: SYSTEM_RESET is answered OK; the reset follows when the OK has left TXD. -/
def takeSystemReset (s : State) : State × Reply :=
  (s, { replyFor .systemReset .ok [] with thenReset := true })

/-- R183: NOTICE_MASK_SET. -/
def takeNoticeMaskSet (mask : BitVec 24) (s : State) : State × Reply :=
  let i := Instr.noticeMaskSet mask
  if namesUnknownNotice mask then (s, replyFor i .badValue [])
  else (s.mapLink fun l => { l with mask := mask }, replyFor i .ok (be24 mask))

end Sys2Proof.Machine
end

