-- ==== Sys2Proof/Machine/Requests.lean ====
section
/-! DEFINITION. The meanings of the requests: the hand-over of a taken frame to the block that owns it (R177), and a request
that is sent as a command of its own. -/

namespace Sys2Proof.Machine

/-- Test 5 of R177: a request handed to the block that owns it, which takes it as one event and forms its reply. -/
def handRequest (i : Instr) (s : State) : State × Reply :=
  match i with
  | .identify => takeIdentify s
  | .systemReset => takeSystemReset s
  | .noticeMaskSet mask => takeNoticeMaskSet mask s
  | .scanSet period => takeScanSet period s
  | .panelSet r => takePanelSet r s
  | .calibrate station => takeCalibrate station s
  | .panelRead station => takePanelRead station s
  | .tempoClear origin => takeTempoClear origin s
  | .tempoPut segments => takeTempoPut segments s
  | .windowsSet r => takeWindowsSet r s
  | .scoringSet r => takeScoringSet r s
  | .ladderSet rungs => takeLadderSet rungs s
  | .stationSet r => takeStationSet r s
  | .chartOpen station mode => takeChartOpen station mode s
  | .notesPut station baseId records => takeNotesPut station baseId records s
  | .chartClose station => takeChartClose station s
  | .stationStatus station => takeStationStatus station s
  | .tallyRead station => takeTallyRead station s
  | .stationClear station => takeStationClear station s
  | .songArm mask startFrame => takeSongArm mask startFrame s
  | .songGo => takeSongGo s
  | .songAbort conditions n => takeSongAbort conditions n s
  | .songStatus => takeSongStatus s
  | .checkpointPush station => takeCheckpointPush station s
  | .checkpointPop station => takeCheckpointPop station s
  | .checkpointDrop station => takeCheckpointDrop station s
  | .checkpointRead station => takeCheckpointRead station s
  | .cueStepsPut startSlot steps => takeCueStepsPut startSlot steps s
  | .cueChannelSet r => takeCueChannelSet r s
  | .cueFire channel => takeCueFire channel s
  | .cueStop channel => takeCueStop channel s
  | .lineBaseSet firstLine levels => takeLineBaseSet firstLine levels s
  | .cueStatus part => takeCueStatus part s
  | .pinReset _ | .startFallingEdge | .wclkEdge | .watchTimerExpiry | .haltTimerExpiry | .scanRoundStart
  | .scanRoundEnd _ | .stepExpiry _ | .rxdByte _ _ | .gapTimerExpiry | .linkBreak | .frameTaken | .transmitComplete
  | .systemResetEvent | .rxdReturnsHigh => (s, rejectReply .unknownKind 0 none)

/-- R177: a frame that has left the buffer, tested and answered. -/
def handFrame (f : InFrame) (s : State) : State × Reply :=
  match f.test with
  | .answered r => (s, r)
  | .request i => handRequest i s

/-- The link port can take a request at once: nothing is in the slot, in the buffer or in the framer, RXD is high and no
reset event is due. -/
def LinkPort.isOpen (l : LinkPort) : Bool :=
  l.slot.isNone && l.ended.isEmpty && decide (l.framer = .hunt) && decide (l.rxd = .high) && !l.resetDue

/-- A request of a command: tests 4 and 5 of R177. -/
def submitNow (i : Instr) (take : State → State × Reply) (s : State) : State × Reply :=
  if i.wf then take s else (s, replyFor i .badLength [])

/-- A request sent as a command: its link frame is taken at once where the link port is open, and else arrives on RXD as
bytes like any other (log 1). -/
def State.submit (i : Instr) (take : State → State × Reply) (s : State) : State :=
  if s.link.isOpen then s.answer (submitNow i take)
  else s.mapLink (LinkPort.receiveBytes s.refTime i.frame)

/-- IDENTIFY (R184). -/
def execIdentify (s : State) : Host.Outcome State Fault Refusal :=
  .next (s.submit .identify takeIdentify)

/-- SYSTEM_RESET (R185). -/
def execSystemReset (s : State) : Host.Outcome State Fault Refusal :=
  .next (s.submit .systemReset takeSystemReset)

/-- NOTICE_MASK_SET (R183). -/
def execNoticeMaskSet (mask : BitVec 24) (s : State) : Host.Outcome State Fault Refusal :=
  .next (s.submit (.noticeMaskSet mask) (takeNoticeMaskSet mask))

/-- SCAN_SET (R20). -/
def execScanSet (period : Half) (s : State) : Host.Outcome State Fault Refusal :=
  .next (s.submit (.scanSet period) (takeScanSet period))

/-- PANEL_SET (R29). -/
def execPanelSet (r : PanelRec) (s : State) : Host.Outcome State Fault Refusal :=
  .next (s.submit (.panelSet r) (takePanelSet r))

/-- CALIBRATE (R30). -/
def execCalibrate (station : Byte) (s : State) : Host.Outcome State Fault Refusal :=
  .next (s.submit (.calibrate station) (takeCalibrate station))

/-- PANEL_READ (R34). -/
def execPanelRead (station : Byte) (s : State) : Host.Outcome State Fault Refusal :=
  .next (s.submit (.panelRead station) (takePanelRead station))

/-- TEMPO_CLEAR (R7). -/
def execTempoClear (origin : Word) (s : State) : Host.Outcome State Fault Refusal :=
  .next (s.submit (.tempoClear origin) (takeTempoClear origin))

/-- TEMPO_PUT (R8). -/
def execTempoPut (segments : List SegmentRec) (s : State) : Host.Outcome State Fault Refusal :=
  .next (s.submit (.tempoPut segments) (takeTempoPut segments))

/-- WINDOWS_SET (R65). -/
def execWindowsSet (r : WindowsRec) (s : State) : Host.Outcome State Fault Refusal :=
  .next (s.submit (.windowsSet r) (takeWindowsSet r))

/-- SCORING_SET (R117). -/
def execScoringSet (r : ScoringRec) (s : State) : Host.Outcome State Fault Refusal :=
  .next (s.submit (.scoringSet r) (takeScoringSet r))

/-- LADDER_SET (R112). -/
def execLadderSet (rungs : List RungRec) (s : State) : Host.Outcome State Fault Refusal :=
  .next (s.submit (.ladderSet rungs) (takeLadderSet rungs))

/-- STATION_SET (R38). -/
def execStationSet (r : StationRec) (s : State) : Host.Outcome State Fault Refusal :=
  .next (s.submit (.stationSet r) (takeStationSet r))

/-- CHART_OPEN (R40). -/
def execChartOpen (station : Byte) (mode : Byte) (s : State) : Host.Outcome State Fault Refusal :=
  .next (s.submit (.chartOpen station mode) (takeChartOpen station mode))

/-- NOTES_PUT (R46). -/
def execNotesPut (station : Byte) (baseId : Half) (records : List NoteRec) (s : State) : Host.Outcome State Fault Refusal :=
  .next (s.submit (.notesPut station baseId records) (takeNotesPut station baseId records))

/-- CHART_CLOSE (R41). -/
def execChartClose (station : Byte) (s : State) : Host.Outcome State Fault Refusal :=
  .next (s.submit (.chartClose station) (takeChartClose station))

/-- STATION_STATUS (R62). -/
def execStationStatus (station : Byte) (s : State) : Host.Outcome State Fault Refusal :=
  .next (s.submit (.stationStatus station) (takeStationStatus station))

/-- TALLY_READ (R121). -/
def execTallyRead (station : Byte) (s : State) : Host.Outcome State Fault Refusal :=
  .next (s.submit (.tallyRead station) (takeTallyRead station))

/-- STATION_CLEAR (R42). -/
def execStationClear (station : Byte) (s : State) : Host.Outcome State Fault Refusal :=
  .next (s.submit (.stationClear station) (takeStationClear station))

/-- SONG_ARM (R137). -/
def execSongArm (mask : Byte) (startFrame : Word) (s : State) : Host.Outcome State Fault Refusal :=
  .next (s.submit (.songArm mask startFrame) (takeSongArm mask startFrame))

/-- SONG_GO (R138). -/
def execSongGo (s : State) : Host.Outcome State Fault Refusal :=
  .next (s.submit .songGo takeSongGo)

/-- SONG_ABORT (R144). -/
def execSongAbort (conditions : Byte) (n : Half) (s : State) : Host.Outcome State Fault Refusal :=
  .next (s.submit (.songAbort conditions n) (takeSongAbort conditions n))

/-- SONG_STATUS (R148). -/
def execSongStatus (s : State) : Host.Outcome State Fault Refusal :=
  .next (s.submit .songStatus takeSongStatus)

/-- CHECKPOINT_PUSH (R126). -/
def execCheckpointPush (station : Byte) (s : State) : Host.Outcome State Fault Refusal :=
  .next (s.submit (.checkpointPush station) (takeCheckpointPush station))

/-- CHECKPOINT_POP (R131). -/
def execCheckpointPop (station : Byte) (s : State) : Host.Outcome State Fault Refusal :=
  .next (s.submit (.checkpointPop station) (takeCheckpointPop station))

/-- CHECKPOINT_DROP (R132). -/
def execCheckpointDrop (station : Byte) (s : State) : Host.Outcome State Fault Refusal :=
  .next (s.submit (.checkpointDrop station) (takeCheckpointDrop station))

/-- CHECKPOINT_READ (R133). -/
def execCheckpointRead (station : Byte) (s : State) : Host.Outcome State Fault Refusal :=
  .next (s.submit (.checkpointRead station) (takeCheckpointRead station))

/-- CUE_STEPS_PUT (R155). -/
def execCueStepsPut (startSlot : Byte) (steps : List StepRec) (s : State) : Host.Outcome State Fault Refusal :=
  .next (s.submit (.cueStepsPut startSlot steps) (takeCueStepsPut startSlot steps))

/-- CUE_CHANNEL_SET (R158). -/
def execCueChannelSet (r : ChannelRec) (s : State) : Host.Outcome State Fault Refusal :=
  .next (s.submit (.cueChannelSet r) (takeCueChannelSet r))

/-- CUE_FIRE (R167). -/
def execCueFire (channel : Byte) (s : State) : Host.Outcome State Fault Refusal :=
  .next (s.submit (.cueFire channel) (takeCueFire channel))

/-- CUE_STOP (R168). -/
def execCueStop (channel : Byte) (s : State) : Host.Outcome State Fault Refusal :=
  .next (s.submit (.cueStop channel) (takeCueStop channel))

/-- LINE_BASE_SET (R152). -/
def execLineBaseSet (firstLine : Byte) (levels : List Byte) (s : State) : Host.Outcome State Fault Refusal :=
  .next (s.submit (.lineBaseSet firstLine levels) (takeLineBaseSet firstLine levels))

/-- CUE_STATUS (R169). -/
def execCueStatus (part : Byte) (s : State) : Host.Outcome State Fault Refusal :=
  .next (s.submit (.cueStatus part) (takeCueStatus part))

end Sys2Proof.Machine
end

