-- ==== Sys2Proof/Machine/Events.lean ====
section
/-! DEFINITION. The meanings of the events: pins, timers, the scan round, and the events of the link port. -/

namespace Sys2Proof.Machine

/-! ### Pins and the watch -/

/-- PIN_RESET (R186, and R17, R36, R63, R123, R150, R170). -/
def execPinReset (straps : BitVec 2) (s : State) : Host.Outcome State Fault Refusal := .next (s.pinReset straps)

/-- START_FALLING_EDGE (R138). -/
def execStartFallingEdge (s : State) : Host.Outcome State Fault Refusal := .next s.latchStart

/-- R1, R4, R139, R142: what an edge does beside the watch, by the song state that holds when it arrives. -/
def State.edgeBySong (wasAbsent : Bool) (s : State) : State :=
  match s.song.state with
  | .running => s.countedEdge
  | .halted => if wasAbsent then s.clockBack else s
  | .armed => if s.song.latch then s.startEdge else s
  | .stopped | .finished => s

/-- WCLK_EDGE (R1 to R4). -/
def execWclkEdge (s : State) : Host.Outcome State Fault Refusal :=
  .next (s.watchEdge.edgeBySong (decide (s.clock.watch = .absent))).settle

/-- WATCH_TIMER_EXPIRY (R3, R141); nothing where the timer is stopped (log 3). -/
def execWatchTimerExpiry (s : State) : Host.Outcome State Fault Refusal :=
  match s.clock.watchTimer with
  | some since => .next ((s.advanceTo (since + watchInterval)).watchExpire.clockLost).settle
  | none => .next s

/-- HALT_TIMER_EXPIRY (R143, R145); nothing where the timer does not run in HALTED (log 3). -/
def execHaltTimerExpiry (s : State) : Host.Outcome State Fault Refusal :=
  match s.song.state, s.song.halt with
  | .halted, .running since => .next ((s.advanceTo (since + haltLimit)).haltExpire).finish
  | _, _ => .next s

/-! ### The scan round (R19) -/

/-- The moment of the next round's start: one period after the start of the last (R19, R20). -/
def State.nextRoundTime (s : State) : Nat := max s.refTime (s.scanner.lastStart + s.scanner.period * cyclesPerUs)

/-- SCAN_ROUND_START (R19, R20); nothing while a round is in progress (log 3). -/
def execScanRoundStart (s : State) : Host.Outcome State Fault Refusal :=
  match s.scanner.round with
  | none =>
    .next ((s.advanceTo s.nextRoundTime).mapScanner fun sc =>
      { sc with lastStart := s.nextRoundTime, round := some { stamp := s.now, void := false } })
  | some _ => .next s

/-- What a round end hands on: a contact event, with the contact state it leaves its channel in, a notice of the contact
work, or the CALIBRATED notice of a job that ends. -/
inductive RoundItem where
  | contact (e : ContactEvent) (after : Contact)
  | notice (n : Notice)
  | jobEnd (n : Notice)
  deriving DecidableEq, Repr

/-- The panel channel of a contact event. -/
def ContactEvent.panel (e : ContactEvent) : PanelId := panelOf e.station e.lane

/-- A channel's contact state replaced. -/
def Scanner.setContact (c : PanelId) (contact : Contact) (sc : Scanner) : Scanner :=
  { sc with channels := sc.channels.set c { sc.channels[c] with contact := contact } }

/-- R26: one item of a round end taken: the channel is in its new contact state as its event is taken. -/
def State.takeRoundItem (i : RoundItem) (s : State) : State :=
  match i with
  | .contact e after => (s.mapScanner (Scanner.setContact e.panel after)).takeContact e
  | .notice n | .jobEnd n => s.notify n

/-- The items of one station, in ascending lane order (R26). -/
def RoundOutcome.itemsOf (o : RoundOutcome) (k : StationId) : List RoundItem :=
  (o.events.filter fun e => decide (e.station = k)).map fun e => .contact e (o.scanner.channels[e.panel]).contact

/-- R21, R26: the contact work of one station: its events in lane order, and each of its notices, with no order among
them. -/
def RoundOutcome.contactWork (o : RoundOutcome) (k : StationId) : List (List RoundItem) :=
  o.itemsOf k :: (o.notices.filter fun n => decide (n.station = some k)).map fun n => [.notice n]

/-- R31: what a round end hands on for each of some stations: its contact work in an open order, and after it the
CALIBRATED notice of a job that ends there. -/
def RoundOutcome.stationItems (o : RoundOutcome) : List StationId → State → List (List RoundItem) × State
  | [], s => ([], s)
  | k :: rest, s =>
    let (work, s) := weave (o.contactWork k).flatten.length (o.contactWork k) s
    let ended := (o.calibrated.filter fun n => decide (n.station = some k)).map RoundItem.jobEnd
    let (more, s) := o.stationItems rest s
    ((work ++ ended) :: more, s)

/-- The station of an item. -/
def RoundItem.station : RoundItem → Option StationId
  | .contact e _ => some e.station
  | .notice n | .jobEnd n => n.station

/-- An item of a round end that has been taken, with what was posted as it was taken. -/
abbrev TakenItem := RoundItem × List Post

/-- What the engine of station k posted as it took its contact events. -/
def enginePosts (k : StationId) (taken : List TakenItem) : List Post :=
  taken.flatMap fun x =>
    match x.1 with
    | .contact e _ => if e.station = k then x.2 else []
    | .notice _ | .jobEnd _ => []

/-- The notices of station k's contact work, each a stream of its own. -/
def noticePosts (k : StationId) (taken : List TakenItem) : List (List Post) :=
  taken.filterMap fun x =>
    match x.1 with
    | .notice n => if n.station = some k then some x.2 else none
    | .contact _ _ | .jobEnd _ => none

/-- The CALIBRATED notice of station k's job. -/
def jobEndPosts (k : StationId) (taken : List TakenItem) : List Post :=
  taken.flatMap fun x =>
    match x.1 with
    | .jobEnd n => if n.station = some k then x.2 else []
    | .contact _ _ | .notice _ => []

/-- The posts of a round end by station and by where they go: the reports of the engine in their order, with the notices of
the contact work among them in any order and CALIBRATED behind them (R31); and the triggers to each channel. -/
def roundStreams (taken : List TakenItem) : List StationId → State → List (List Post) × State
  | [], s => ([], s)
  | k :: rest, s =>
    let posted := enginePosts k taken
    let reports := posted.filter Post.isReport :: noticePosts k taken
    let (reports, s) := weave reports.flatten.length reports s
    let (more, s) := roundStreams taken rest s
    ((reports ++ jobEndPosts k taken) :: triggerStreams posted ++ more, s)

/-- R180: what the items of a round end posted is delivered. -/
def State.deliverRound (taken : List TakenItem) (s : State) : State :=
  let (streams, s) := roundStreams taken allStations s
  s.deliver streams

/-- R26, R129, R146: the items of a round end taken one after another; what they post is delivered behind them. Before each
item the end events on their way may be taken, behind all that has been posted until then. -/
def State.takeRoundItems : List RoundItem → List TakenItem → State → State
  | [], taken, s => s.deliverRound taken
  | i :: rest, taken, s =>
    match s.chooseIf (!s.song.ends.isEmpty) with
    | (true, s) =>
      let (ps, s) := (s.deliverRound taken).flush.collect (State.takeRoundItem i)
      State.takeRoundItems rest [(i, ps)] s
    | (false, s) =>
      let (ps, s) := s.collect (State.takeRoundItem i)
      State.takeRoundItems rest (taken ++ [(i, ps)]) s

/-- Whether some PLAYING station takes two events of the round, so that it matters which contact states an engine sees
between them (log 20). -/
def State.viewMatters (s : State) (events : List ContactEvent) : Bool :=
  allStations.any fun k => s.playing k && decide (2 ≤ (events.filter fun e => decide (e.station = k)).length)

/-- The scanner with the channels of some events still in their old contact states. -/
def Scanner.holdBack (old : Scanner) (events : List ContactEvent) (sc : Scanner) : Scanner :=
  events.foldl (fun sc e => sc.setContact e.panel (old.channels[e.panel]).contact) sc

/-- R19: the end of a round with a stamp. What it hands on for different stations has no order (R26, log 31). -/
def State.roundEnd (stamp : Int) (data : RoundData) (s : State) : State :=
  let (stuckFirst, s) := s.chooseIf (s.scanner.stuckMeetsFault data)
  let o := s.scanner.roundEnd stuckFirst stamp data
  let (heldBack, s) := s.chooseIf (s.viewMatters o.events)
  let shown := if heldBack then s.scanner.holdBack o.events o.scanner else o.scanner
  let (items, s) := o.stationItems allStations { s with scanner := shown }
  let (order, s) := weave items.flatten.length items s
  s.takeRoundItems order []

/-- SCAN_ROUND_END (R19, R21 to R28, R31); nothing where no round is in progress (log 3), and only the round's end where a
system reset took it (R36). -/
def execScanRoundEnd (data : RoundData) (s : State) : Host.Outcome State Fault Refusal :=
  match s.scanner.round with
  | none => .next s
  | some r =>
    if r.void then .next (s.mapScanner Scanner.endVoid)
    else .next (s.roundEnd r.stamp data).finish

/-! ### Cue steps -/

/-- STEP_EXPIRY (R163 to R165); nothing where no step of the channel runs (log 3). -/
def execStepExpiry (channel : ChannelId) (s : State) : Host.Outcome State Fault Refusal :=
  match (s.cue.channels[channel]).running with
  | some r => .next ((s.advanceTo r.expiry).expireStep channel r).settle
  | none => .next s

/-! ### The link port -/

/-- RXD_BYTE (R171, R172, R174, R176). -/
def execRxdByte (value : Byte) (framingError : Bool) (s : State) : Host.Outcome State Fault Refusal :=
  .next (s.mapLink (LinkPort.receiveByte s.refTime value framingError))

/-- GAP_TIMER_EXPIRY (R174); nothing where the gap timer does not run (log 3). -/
def execGapTimerExpiry (s : State) : Host.Outcome State Fault Refusal :=
  match s.link.gap with
  | .running since => .next ((s.advanceTo (since + gapLimit)).mapLink (LinkPort.endFrame true))
  | .stopped | .suspended => .next s

/-- LINK_BREAK (R175). -/
def execLinkBreak (s : State) : Host.Outcome State Fault Refusal := .next (s.mapLink LinkPort.takeBreak).settle

/-- RXD_RETURNS_HIGH (R174, R175). -/
def execRxdReturnsHigh (s : State) : Host.Outcome State Fault Refusal :=
  .next (s.mapLink (LinkPort.returnHigh s.refTime))

/-- FRAME_TAKEN (R177); nothing where no frame can be taken (log 4). -/
def execFrameTaken (s : State) : Host.Outcome State Fault Refusal :=
  match s.link.canTake, s.link.ended with
  | true, f :: _ => .next ((s.mapLink LinkPort.dropFrame).answer (handFrame f))
  | _, _ => .next s

/-- TRANSMIT_COMPLETE (R178, R179, R181); nothing while the transmitter is idle (log 32). -/
def execTransmitComplete (s : State) : Host.Outcome State Fault Refusal := .next s.transmitDone

/-- SYSTEM_RESET_EVENT (R185); nothing where no reset is due (log 5). -/
def execSystemResetEvent (s : State) : Host.Outcome State Fault Refusal :=
  if s.link.resetDue then .next s.systemReset.settle else .next s

end Sys2Proof.Machine
end

