-- ==== Sys2Proof/Machine/Dispatch.lean ====
section
/-! DEFINITION. The one table from commands to meanings. -/

namespace Sys2Proof.Machine

def exec (i : Instr) (s : State) : Host.Outcome State Fault Refusal :=
  match i with
  | .pinReset straps => Sys2Proof.Machine.execPinReset straps s
  | .startFallingEdge => Sys2Proof.Machine.execStartFallingEdge s
  | .wclkEdge => Sys2Proof.Machine.execWclkEdge s
  | .watchTimerExpiry => Sys2Proof.Machine.execWatchTimerExpiry s
  | .haltTimerExpiry => Sys2Proof.Machine.execHaltTimerExpiry s
  | .scanRoundStart => Sys2Proof.Machine.execScanRoundStart s
  | .scanRoundEnd data => Sys2Proof.Machine.execScanRoundEnd data s
  | .stepExpiry channel => Sys2Proof.Machine.execStepExpiry channel s
  | .rxdByte value framingError => Sys2Proof.Machine.execRxdByte value framingError s
  | .gapTimerExpiry => Sys2Proof.Machine.execGapTimerExpiry s
  | .linkBreak => Sys2Proof.Machine.execLinkBreak s
  | .frameTaken => Sys2Proof.Machine.execFrameTaken s
  | .transmitComplete => Sys2Proof.Machine.execTransmitComplete s
  | .systemResetEvent => Sys2Proof.Machine.execSystemResetEvent s
  | .identify => Sys2Proof.Machine.execIdentify s
  | .systemReset => Sys2Proof.Machine.execSystemReset s
  | .noticeMaskSet mask => Sys2Proof.Machine.execNoticeMaskSet mask s
  | .scanSet period => Sys2Proof.Machine.execScanSet period s
  | .panelSet r => Sys2Proof.Machine.execPanelSet r s
  | .calibrate station => Sys2Proof.Machine.execCalibrate station s
  | .panelRead station => Sys2Proof.Machine.execPanelRead station s
  | .tempoClear origin => Sys2Proof.Machine.execTempoClear origin s
  | .tempoPut segments => Sys2Proof.Machine.execTempoPut segments s
  | .windowsSet r => Sys2Proof.Machine.execWindowsSet r s
  | .scoringSet r => Sys2Proof.Machine.execScoringSet r s
  | .ladderSet rungs => Sys2Proof.Machine.execLadderSet rungs s
  | .stationSet r => Sys2Proof.Machine.execStationSet r s
  | .chartOpen station mode => Sys2Proof.Machine.execChartOpen station mode s
  | .notesPut station baseId records => Sys2Proof.Machine.execNotesPut station baseId records s
  | .chartClose station => Sys2Proof.Machine.execChartClose station s
  | .stationStatus station => Sys2Proof.Machine.execStationStatus station s
  | .tallyRead station => Sys2Proof.Machine.execTallyRead station s
  | .stationClear station => Sys2Proof.Machine.execStationClear station s
  | .songArm mask startFrame => Sys2Proof.Machine.execSongArm mask startFrame s
  | .songGo => Sys2Proof.Machine.execSongGo s
  | .songAbort conditions n => Sys2Proof.Machine.execSongAbort conditions n s
  | .songStatus => Sys2Proof.Machine.execSongStatus s
  | .checkpointPush station => Sys2Proof.Machine.execCheckpointPush station s
  | .checkpointPop station => Sys2Proof.Machine.execCheckpointPop station s
  | .checkpointDrop station => Sys2Proof.Machine.execCheckpointDrop station s
  | .checkpointRead station => Sys2Proof.Machine.execCheckpointRead station s
  | .cueStepsPut startSlot steps => Sys2Proof.Machine.execCueStepsPut startSlot steps s
  | .cueChannelSet r => Sys2Proof.Machine.execCueChannelSet r s
  | .cueFire channel => Sys2Proof.Machine.execCueFire channel s
  | .cueStop channel => Sys2Proof.Machine.execCueStop channel s
  | .lineBaseSet firstLine levels => Sys2Proof.Machine.execLineBaseSet firstLine levels s
  | .cueStatus part => Sys2Proof.Machine.execCueStatus part s
  | .rxdReturnsHigh => Sys2Proof.Machine.execRxdReturnsHigh s

end Sys2Proof.Machine
end

