-- ==== Sys2Proof/Safety.lean ====
section
/-! DEFINITION. What a safe run is: no step of it stops; and the words the statements share: when a request is taken at
once, what its reply does, and the order that every step keeps. -/

namespace Sys2Proof.Machine

/-- An outcome that goes on. -/
def Continues : Host.Outcome State Fault Refusal → Prop
  | .next _ => True
  | .fault _ => False
  | .refused _ => False

/-- A step from s goes on. -/
def SafeStep (s : State) : Prop := Continues (step s)

/-- Several steps one after another; a step that stops ends them. -/
def steps : Nat → State → Host.Outcome State Fault Refusal
  | 0, s => .next s
  | n + 1, s =>
    match step s with
    | .next t => steps n t
    | o => o

/-- Nothing is on its way between blocks, and no hand-off is being taken, as at the end of every command (logs 6, 8 and
33). -/
def State.quiescent (s : State) : Prop := s.song.ends = [] ∧ s.link.held = [] ∧ s.outbox = none

/-- A request sent now is taken at once: the link port is open (log 1), and nothing is on its way. -/
def State.ready (s : State) : Prop := s.link.isOpen = true ∧ s.quiescent

/-- R178, R179: a reply enters the slot, and the transmitter chooses where it is free. -/
def State.replied (r : Reply) (s : State) : State := (s.mapLink (LinkPort.putReply r)).settle

/-- The reply to a request: its code plus 0x80, a result code and the fields that follow it (R189). -/
def State.answered (i : Instr) (code : Code) (fields : List Byte) (s : State) : State := s.replied (replyFor i code fields)

/-- R43: the song is active: ARMED, RUNNING or HALTED. -/
def State.songActive (s : State) : Prop := s.song.state = .armed ∨ s.song.state = .running ∨ s.song.state = .halted

/-- What the blocks share and no event of a song changes: the widths, the scoring table, the ladder; with the queue of
commands. -/
def SharedKept (s t : State) : Prop :=
  t.windows = s.windows ∧ t.scoring = s.scoring ∧ t.ladder = s.ladder ∧ t.pending = s.pending

/-- Every station but one is as it was. -/
def OthersKept (k : StationId) (s t : State) : Prop := ∀ j, j ≠ k → t.station j = s.station j

/-! ### The order of the tempo map, of the queues and of the hold lists -/

/-- R5, R9: the values of a BEAT and of a STOP. -/
def SegmentBody.legal : SegmentBody → Prop
  | .beat fpbRaw beats => 65536 ≤ fpbRaw ∧ fpbRaw ≤ 4294967295 ∧ 1 ≤ beats ∧ beats ≤ 16
  | .stop length => 1 ≤ length ∧ length ≤ 16777216

/-- R6, R9: segment b may follow segment a: after a BEAT at a later tick, after a STOP at its own, with R6's start frame. -/
def Segment.Follows (a b : Segment) : Prop :=
  match a.body with
  | .beat fpbRaw _ =>
    a.startTick < b.startTick ∧
      b.startFrame = a.startFrame + Int.ofNat ((b.startTick - a.startTick) * fpbRaw / 3145728)
  | .stop length => b.startTick = a.startTick ∧ b.startFrame = a.startFrame + Int.ofNat length

/-- R5, R9: the shape of a tempo map: legal values, start frames of 32 bits, a BEAT at tick 0 first, and each segment one
that may follow the segment before it. -/
def TempoMapOk (map : List Segment) : Prop :=
  (∀ seg ∈ map, seg.body.legal ∧ -2147483648 ≤ seg.startFrame ∧ seg.startFrame ≤ 2147483647) ∧
    (∀ seg ∈ map.head?, seg.startTick = 0 ∧ seg.body.isBeat = true) ∧ map.IsChain Segment.Follows

/-- R44, R89: a station's queue in order of frame, of tick and of acceptance, its serials (log 24) distinct and none of a
record to come, each frame the conversion of its tick, none after the last accepted tick; and one hold item a lane, in
ascending lane order (log 42). -/
def Station.Ordered (map : List Segment) (st : Station) : Prop :=
  (st.queue.map Entry.frame).Pairwise (· ≤ ·) ∧ (st.queue.map Entry.tick).Pairwise (· ≤ ·) ∧
    (st.queue.map Entry.seq).Pairwise (· < ·) ∧
    (∀ e ∈ st.queue, e.seq < st.intake.nextSeq ∧ convert map e.tick = .frame e.frame ∧
      ∃ last, st.intake.lastTick = some last ∧ e.tick ≤ last) ∧
    (st.holds.map fun h => h.lane.val).Pairwise (· < ·)

/-- The tempo map has its shape, and every station is in order. -/
def State.Ordered (s : State) : Prop := TempoMapOk s.clock.map ∧ ∀ k, (s.station k).Ordered s.clock.map

end Sys2Proof.Machine
end

