-- ==== Sys2Proof/Certificates/Slice0/Obligations.lean ====
section
/-! DEFINITION. The statements for the provers. A free value (log 6) is never fixed: each statement holds for every value
of the fields that decide open orders. -/

section
open Sys2Proof Sys2Proof.Machine

/-! ### The machine -/

/-- A step takes the command at the front of the queue, with the queue's rest. -/
def Obligations.StepTakesTheFrontCommand : Prop :=
  ∀ (c : Instr) (rest : List Instr) (s : State), s.pending = c :: rest → step s = exec c { s with pending := rest }

/-- Every command goes on, in every state (the model's choice, DEDUCED, log 29), and leaves the queue of commands as it
is, PIN_RESET too (the model's choice, log 22). On an empty queue one CLKIN cycle passes and nothing else changes (the
model's choice, log 2). An event that cannot happen in a state changes nothing (the model's choice: logs 3 to 5, and log
32 for TRANSMIT_COMPLETE of an idle transmitter). -/
def Obligations.EveryCommandGoesOnAndIdleCommandsChangeNothing : Prop :=
  (∀ (c : Instr) (s : State), ∃ t, exec c s = .next t ∧ t.pending = s.pending) ∧
  (∀ s : State, s.pending = [] → step s = .next { s with refTime := s.refTime + 1 }) ∧
  (∀ s : State,
    (s.clock.watchTimer = none → exec .watchTimerExpiry s = .next s) ∧
    ((s.song.state ≠ .halted ∨ ∃ ms, s.song.halt = .stopped ms) → exec .haltTimerExpiry s = .next s) ∧
    (s.scanner.round ≠ none → exec .scanRoundStart s = .next s) ∧
    (∀ data, s.scanner.round = none → exec (.scanRoundEnd data) s = .next s) ∧
    (∀ c : ChannelId, (s.cue.channels[c]).running = none → exec (.stepExpiry c) s = .next s) ∧
    ((∀ since, s.link.gap ≠ .running since) → exec .gapTimerExpiry s = .next s) ∧
    ((s.link.slot ≠ none ∨ s.link.ended = [] ∨ s.link.resetDue = true) → exec .frameTaken s = .next s) ∧
    (s.link.tx = none → exec .transmitComplete s = .next s) ∧
    (s.link.resetDue = false → exec .systemResetEvent s = .next s))

/-! ### The link frame codec (chapter 11, R173, R187) -/

/-- Every well-formed request is read back, with every operand, from the KIND and the payload it is written as. -/
def Obligations.RequestsAreReadBack : Prop :=
  ∀ (i : Instr) (k : Byte), i.wf = true → i.kind = some k → decodeRequest k i.payload = .request i

/-- R172: the bytes of a whole link frame, received one after another in HUNT with room for them, are one frame that has
ended complete, and the framer is in HUNT again with its gap timer stopped. -/
def Obligations.FramerTakesAWholeFrame : Prop :=
  ∀ (kind : Byte) (payload : List Byte) (rest : List Instr) (s : State), payload.length ≤ 240 →
    s.pending = ((frameBytes kind payload).map fun b => .rxdByte b false) ++ rest →
    s.link.rxd = .high → s.link.framer = .hunt → s.link.current = [] →
    s.link.occupancy + payload.length + 5 ≤ 512 →
    steps (payload.length + 5) s =
      .next { s with
        pending := rest,
        link := { s.link with
          gap := .stopped,
          ended := s.link.ended ++ [{ bytes := frameBytes kind payload, truncated := false }] } }

/-- R177, test 5: a request's frame, taken from the inbound buffer of an otherwise open link port, does what the command
of that request does. That a request command on an open link port is taken at once is the model's choice (log 1). -/
def Obligations.FrameOnTheLinkIsTheCommand : Prop :=
  ∀ (i : Instr) (s : State), i.wf = true → i.kind ≠ none → s.link.isOpen = true →
    exec .frameTaken { s with link := { s.link with ended := [{ bytes := i.frame, truncated := false }] } } = exec i s

/-! ### The framer (R171, R172, R174 to R176) -/

/-- R172: the framer's table, for a byte without a framing error while RXD is high and the buffer has room. R176: a byte
that the framer would store in a full buffer is dropped; R172: one that it does not store does what it does with room.
R171, R174: a byte with a framing error is discarded and suspends a running gap timer while RXD stays low. That the
receiver takes no byte until RXD is high again, so that such a byte changes nothing, is the model's choice (log 16). -/
def Obligations.FramerTakesAByte : Prop :=
  (∀ (b : Byte) (s : State), s.link.rxd = .high → s.link.occupancy < 512 →
    (s.link.framer = .hunt → b ≠ 0x5A#8 → exec (.rxdByte b false) s = .next s) ∧
    (s.link.framer = .hunt → b = 0x5A#8 →
      exec (.rxdByte b false) s = .next (s.mapLink fun l => { l with framer := .length, current := [b] })) ∧
    (s.link.framer = .length → 241 ≤ b.toNat →
      exec (.rxdByte b false) s = .next (s.mapLink fun l => { l with framer := .hunt, current := [] })) ∧
    (s.link.framer = .length → b.toNat ≤ 240 →
      exec (.rxdByte b false) s =
        .next (s.mapLink fun l =>
          { l with framer := .kind b.toNat, current := l.current ++ [b], gap := .running s.refTime })) ∧
    (∀ len, s.link.framer = .kind len →
      exec (.rxdByte b false) s =
        .next (s.mapLink fun l =>
          { l with framer := if len = 0 then .check 2 else .body len, current := l.current ++ [b],
                   gap := .running s.refTime })) ∧
    (∀ left, s.link.framer = .body left →
      exec (.rxdByte b false) s =
        .next (s.mapLink fun l =>
          { l with framer := if left ≤ 1 then .check 2 else .body (left - 1), current := l.current ++ [b],
                   gap := .running s.refTime })) ∧
    (∀ left, s.link.framer = .check left → 2 ≤ left →
      exec (.rxdByte b false) s =
        .next (s.mapLink fun l =>
          { l with framer := .check (left - 1), current := l.current ++ [b], gap := .running s.refTime })) ∧
    (∀ left, s.link.framer = .check left → left ≤ 1 →
      exec (.rxdByte b false) s =
        .next (s.mapLink fun l =>
          { l with framer := .hunt, current := [], gap := .stopped,
                   ended := l.ended ++ [{ bytes := l.current ++ [b], truncated := false }] }))) ∧
  (∀ (b : Byte) (s : State),
    (s.link.rxd = .high → 512 ≤ s.link.occupancy →
      (s.link.framer ≠ .hunt ∨ b = 0x5A#8) → (s.link.framer ≠ .length ∨ b.toNat ≤ 240) →
      exec (.rxdByte b false) s = .next s) ∧
    (s.link.rxd = .high → 512 ≤ s.link.occupancy → s.link.framer = .hunt → b ≠ 0x5A#8 →
      exec (.rxdByte b false) s = .next s) ∧
    (s.link.rxd = .high → 512 ≤ s.link.occupancy → s.link.framer = .length → 241 ≤ b.toNat →
      exec (.rxdByte b false) s = .next (s.mapLink fun l => { l with framer := .hunt, current := [] })) ∧
    (s.link.rxd = .high → (s.link.framer = .hunt ∨ s.link.framer = .length) →
      exec (.rxdByte b true) s = .next (s.mapLink fun l => { l with rxd := .low })) ∧
    (s.link.rxd = .high → s.link.framer ≠ .hunt → s.link.framer ≠ .length →
      exec (.rxdByte b true) s = .next (s.mapLink fun l => { l with rxd := .low, gap := .suspended })) ∧
    (∀ error, s.link.rxd ≠ .high → exec (.rxdByte b error) s = .next s))

/-- R174: the gap timer's expiry ends the frame truncated, and RXD returning high restarts a suspended timer. R175: a
link break empties the inbound buffer, once. That reference time moves to the later of now and the first cycle past 5 ms
(logs 3 and 15), and that a LINK_BREAK while the break has been taken does only what the transmitter may begin (log 16),
are the model's choices. -/
def Obligations.GapExpiryBreakAndReturnHigh : Prop :=
  ∀ s : State,
    (∀ since, s.link.gap = .running since →
      exec .gapTimerExpiry s =
        .next { s with
          refTime := max s.refTime (since + 80001),
          link := { s.link with
            framer := .hunt, current := [], gap := .stopped,
            ended := s.link.ended ++ [{ bytes := s.link.current, truncated := true }] } }) ∧
    (s.link.rxd ≠ .broken →
      exec .linkBreak s =
        .next (s.mapLink fun l =>
          { l with rxd := .broken, framer := .hunt, current := [], gap := .stopped, ended := [] }).settle) ∧
    (s.link.rxd = .broken → exec .linkBreak s = .next s.settle) ∧
    (s.link.gap = .suspended →
      exec .rxdReturnsHigh s = .next (s.mapLink fun l => { l with rxd := .high, gap := .running s.refTime })) ∧
    (s.link.gap ≠ .suspended → exec .rxdReturnsHigh s = .next (s.mapLink fun l => { l with rxd := .high }))

/-! ### Frames taken, replies and the transmitter (R177 to R182) -/

/-- R177, tests 1 to 4, with R189: a frame that carries no request its block can take is answered by the link port,
which changes nothing else. R187: test 4: the lengths that the request of each kind code (11.2) may have; every other
length is refused. R189: a reply's kind byte is its request's plus 0x80 and its first payload byte the result code
(11.3); what a REJECT carries. -/
def Obligations.FrameTakenIsAnsweredByTheLinkPort : Prop :=
  (∀ (f : InFrame) (rest : List InFrame) (s : State), s.link.slot = none → s.link.resetDue = false →
    s.link.ended = f :: rest → s.quiescent →
    let dropped := s.mapLink fun l => { l with ended := rest }
    (f.truncated = true → exec .frameTaken s = .next (dropped.replied (rejectReply .truncated f.len f.kind))) ∧
    (f.truncated = false → f.check ≠ be16 (crc16 f.covered) →
      exec .frameTaken s = .next (dropped.replied (rejectReply .badCheck f.len f.kind))) ∧
    (∀ k, f.truncated = false → f.check = be16 (crc16 f.covered) → f.kind = some k →
      (k.toNat = 0 ∨ 0x21 < k.toNat) →
      exec .frameTaken s = .next (dropped.replied (rejectReply .unknownKind f.len (some k)))) ∧
    (∀ k, f.truncated = false → f.check = be16 (crc16 f.covered) → f.kind = some k →
      decodeRequest k f.payload = .badLength →
      exec .frameTaken s = .next (dropped.replied (replyTo k .badLength [])))) ∧
  (∀ (k : Byte) (p : List Byte),
    let n := k.toNat
    let byte := fun i : Nat => (p.getD i 0).toNat
    let fits : Prop :=
      (n ∈ [0x01, 0x02, 0x15, 0x17] ∧ p.length = 0) ∨
      (n ∈ [0x06, 0x07, 0x10, 0x11, 0x12, 0x13, 0x18, 0x19, 0x1A, 0x1B, 0x1E, 0x1F, 0x21] ∧ p.length = 1) ∨
      (n ∈ [0x04, 0x0E] ∧ p.length = 2) ∨ (n ∈ [0x03, 0x16] ∧ p.length = 3) ∨ (n = 0x08 ∧ p.length = 4) ∨
      (n = 0x14 ∧ p.length = 5) ∨ (n = 0x05 ∧ p.length = 9) ∨ (n = 0x0D ∧ p.length = 10) ∨
      (n = 0x1D ∧ p.length = 13) ∨ (n = 0x0A ∧ p.length = 14) ∨ (n = 0x0B ∧ p.length = 36) ∨
      (n = 0x09 ∧ 1 ≤ byte 0 ∧ byte 0 ≤ 16 ∧ p.length = 1 + 14 * byte 0) ∨
      (n = 0x0C ∧ p.length = 1 + 5 * byte 0) ∨
      (n = 0x0F ∧ 1 ≤ byte 3 ∧ byte 3 ≤ 23 ∧ p.length = 4 + 10 * byte 3) ∨
      (n = 0x1C ∧ 1 ≤ byte 1 ∧ byte 1 ≤ 40 ∧ p.length = 2 + 5 * byte 1) ∨
      (n = 0x20 ∧ 2 ≤ p.length ∧ p.length ≤ 49)
    decodeRequest k p = .badLength ↔ 1 ≤ n ∧ n ≤ 0x21 ∧ ¬ fits) ∧
  (∀ (k len : Byte) (kind : Option Byte) (code : Code) (fields : List Byte) (r : Reply),
    replyTo k code fields = { kind := k + 0x80#8, payload := code.byte :: fields, thenReset := false } ∧
    (∀ p ∈ ([(.badCheck, 1#8), (.truncated, 2#8), (.unknownKind, 3#8)] : List (RejectReason × Byte)),
      rejectReply p.1 len kind =
        { kind := 0xBF#8, payload := [0x03#8, p.2, len, if kind.isSome then 1#8 else 0#8, kind.getD 0],
          thenReset := false }) ∧
    TxFrame.bytes (.reply r) = frameBytes r.kind r.payload) ∧
  ([.ok, .pending, .partialTaken, .reject, .badLength, .badValue, .state, .busy, .full, .ended, .lane, .order,
    .duplicate, .overlap, .chordLimit, .chordClosed, .late, .noTempo, .notRunning, .stackFull, .stackEmpty] :
      List Code).map Code.byte = (List.range 21).map (BitVec.ofNat 8)

/-- R178: the reply of a request enters the slot, and an idle transmitter begins it; nothing else changes. R178, R179,
R181, R185: the end of a transmission. A reply leaves the slot with its last byte; then the transmitter chooses a LOST
report, which takes the loss count, before the oldest record of the report queue. A reply that waits goes first. That
LOST goes ahead of every record still queued follows R179 and 10.5.1 against R181's last clause, the model's choice (log
41). The model's choices: the transmitter begins nothing while an ended frame waits to be taken (log 4) or a reset is
due (log 5), it chooses at the end of the command (log 27), and TRANSMIT_COMPLETE of an idle transmitter changes nothing
(log 32). R177: a request is answered after its block has taken it and what that hands on has been taken; where this
made a report ready while the transmitter was idle, either goes first (logs 6 and 27). -/
def Obligations.ReplySlotAndTransmitter : Prop :=
  (∀ (r : Reply) (s : State), s.link.isOpen = true →
    s.replied r =
      { s with link := { s.link with slot := some r, tx := if s.link.tx = none then some (.reply r) else s.link.tx } }) ∧
  (∀ s : State,
    (s.link.tx = none → exec .transmitComplete s = .next s) ∧
    (∀ r, s.link.tx = some (.reply r) → r.thenReset = false → s.link.resetDue = false → s.link.ended = [] →
      let l := { s.link with slot := none, tx := none }
      (0 < s.link.loss →
        exec .transmitComplete s = .next { s with link := { l with tx := some (.lost l.loss), loss := 0 } }) ∧
      (∀ x rest, s.link.loss = 0 → s.link.reports = x :: rest →
        exec .transmitComplete s = .next { s with link := { l with tx := some (.report x), reports := rest } }) ∧
      (s.link.loss = 0 → s.link.reports = [] → exec .transmitComplete s = .next { s with link := l })) ∧
    (∀ r, s.link.tx = some (.reply r) → r.thenReset = true →
      exec .transmitComplete s = .next { s with link := { s.link with slot := none, tx := none, resetDue := true } }) ∧
    (((∃ x, s.link.tx = some (.report x)) ∨ ∃ n, s.link.tx = some (.lost n)) →
      (∀ r, s.link.slot = some r → s.link.resetDue = false →
        exec .transmitComplete s = .next { s with link := { s.link with tx := some (.reply r) } }) ∧
      (s.link.slot = none → s.link.resetDue = false → s.link.ended = [] →
        (0 < s.link.loss →
          exec .transmitComplete s =
            .next { s with link := { s.link with tx := some (.lost s.link.loss), loss := 0 } }) ∧
        (∀ x rest, s.link.loss = 0 → s.link.reports = x :: rest →
          exec .transmitComplete s =
            .next { s with link := { s.link with tx := some (.report x), reports := rest } }) ∧
        (s.link.loss = 0 → s.link.reports = [] →
          exec .transmitComplete s = .next { s with link := { s.link with tx := none } })) ∧
      ((s.link.resetDue = true ∨ (s.link.slot = none ∧ s.link.ended ≠ [])) →
        exec .transmitComplete s = .next { s with link := { s.link with tx := none } })) ∧
    (∀ r, s.link.tx = some (.reply r) → r.thenReset = false → (s.link.resetDue = true ∨ s.link.ended ≠ []) →
      exec .transmitComplete s = .next { s with link := { s.link with slot := none, tx := none } })) ∧
  (∀ (l : LinkPort) (s : State),
    (0 < l.loss → l.beginReport = { l with tx := some (.lost l.loss), loss := 0 }) ∧
    (∀ x rest, l.loss = 0 → l.reports = x :: rest →
      l.beginReport = { l with tx := some (.report x), reports := rest }) ∧
    (l.loss = 0 → l.reports = [] → l.beginReport = l) ∧
    ((s.link.tx ≠ none ∨ s.link.resetDue = true ∨ (s.link.slot = none ∧ s.link.ended ≠ [])) → s.settle = s) ∧
    (∀ r, s.link.tx = none → s.link.resetDue = false → s.link.slot = some r →
      s.settle = s.mapLink fun l => { l with tx := some (.reply r) }) ∧
    (s.link.tx = none → s.link.resetDue = false → s.link.slot = none → s.link.ended = [] →
      s.settle = s.mapLink LinkPort.beginReport) ∧
    s.finish = s.flush.settle) ∧
  (∀ (take : State → State × Reply) (s : State),
    let t := (take s).1.flush
    let r := (take s).2
    ∃ v : State, v = { t with choices := v.choices, choiceCount := v.choiceCount } ∧
      (s.answer take = v.replied r ∨
        ((t.link.reports ≠ [] ∨ 0 < t.link.loss) ∧ s.link.tx = none ∧
          s.answer take = (v.mapLink fun l => { l.beginReport with slot := some r }).settle)))

/-- R180: a record offered to the report queue. A masked notice is neither queued nor counted; a record with room of its
class, 9 free slots for a result or a MEASURE notice and 1 for any other notice, is appended; else the loss count rises,
and stops at 65,535. Where room is short while the transmitter is free to begin a record, the taking and the offer fall
together and either comes first: the offer, or the taking of a LOST report or of the oldest record and then the offer.
That a frame due to be taken, or a reset event due, keeps the transmitter from being free is the model's choice (log 4);
that the offers of one command are taken before the transmitter chooses, but where room is short, is the model's choice
too (log 27); that LOST goes ahead of the queued records follows R179 against R181's last clause (log 41). A report
offered while a hand-off is being taken is posted, and offered with the posts of the other hand-offs (log 33). 11.3: the
notice codes, which are the bits of the notice mask. R176: CTS is asserted while 245 or more bytes of the buffer are
free. R182: ATN is asserted exactly when the report queue is non-empty or the loss count is above zero. -/
def Obligations.ReportOfferedToTheQueueAndItsPins : Prop :=
  (∀ (r : Report) (s : State) (need : Nat),
    ((((∃ x, r = .result x) ∨ ∃ m t, r = .notice t (.measure m)) ∧ need = 9) ∨
      ((∃ n t, r = .notice t n ∧ ∀ m, n ≠ .measure m) ∧ need = 1)) →
    let free : Prop := s.link.tx = none ∧ s.link.slot = none ∧ s.link.resetDue = false ∧ s.link.ended = []
    let counted := fun l : LinkPort => { l with loss := min 65535 (l.loss + 1) }
    (∀ n t, r = .notice t n → s.link.mask.getLsbD n.code = false → s.takeOffer r = s) ∧
    ((∀ n t, r = .notice t n → s.link.mask.getLsbD n.code = true) →
      (s.link.reports.length + need ≤ 64 →
        s.takeOffer r = s.mapLink fun l => { l with reports := l.reports ++ [r] }) ∧
      (64 < s.link.reports.length + need → ¬ free → s.takeOffer r = s.mapLink counted) ∧
      (64 < s.link.reports.length + need → free → ∃ u : State,
        u = { s with choices := u.choices, choiceCount := u.choiceCount } ∧
        (s.takeOffer r = u.mapLink counted ∨
          (0 < s.link.loss ∧
            s.takeOffer r = u.mapLink fun l => { l with tx := some (.lost l.loss), loss := 1 }) ∨
          (s.link.loss = 0 ∧ ∃ first rest, s.link.reports = first :: rest ∧
            s.takeOffer r = u.mapLink fun l =>
              { l with
                tx := some (.report first), reports := if rest.length + need ≤ 64 then rest ++ [r] else rest,
                loss := if rest.length + need ≤ 64 then 0 else 1 })))) ∧
    (s.outbox = none → s.offer r = s.takeOffer r) ∧
    (∀ ps, s.outbox = some ps → s.offer r = { s with outbox := some (ps ++ [.report r]) })) ∧
  (∀ (t : Int) (a : StationSet) (f : FinishCause) (m : Half) (k : StationId) (i : Int) (n : Nat) (l : LaneId)
      (d : DeviceId) (ls : LaneSet) (b : Bool) (p : PushPoint) (o : Bound) (c : ChannelId) (x : EndAction),
    ([.songStarted a, .songFinished f m, .clockLost, .clockBack n, .measure m, .starving k i, .starved k, .cleared k n,
      .failed k n, .panelStuck k l t, .panelFault k d ls t, .panelOk k d ls t, .calibrated k ls b t,
      .checkpointTaken k n n p, .checkpointCancelled k, .scoreOvf k o, .cueDone c x, .cueOverrun c] :
        List Notice).map Notice.code = List.range 18) ∧
  (∀ l : LinkPort,
    (l.cts = true ↔ ((l.ended.map fun f => f.bytes.length).sum + l.current.length) + 245 ≤ 512) ∧
    (l.atn = true ↔ (l.reports ≠ [] ∨ 0 < l.loss)))

/-! ### Resets -/

/-- R185, with R17, R36, R63, R123, R130, R150 and R170: the reset that follows the OK of SYSTEM_RESET, block by block:
what becomes as after reset and what is kept. Where no reset is due the command changes nothing (the model's choice, log
5). -/
def Obligations.SystemResetEventResetsEveryBlock : Prop :=
  ∀ s : State,
    (s.link.resetDue = false → exec .systemResetEvent s = .next s) ∧
    (s.link.resetDue = true → ∃ t, exec .systemResetEvent s = .next t ∧
      t.clock = SongClock.reset ∧ t.song = Song.reset ∧ SharedKept s t ∧ t.refTime = s.refTime ∧
      (∀ k, (t.station k).state = .vacant ∧ (t.station k).queue = [] ∧ (t.station k).stack = [] ∧
        (t.station k).context = ScoreContext.zero ∧ (t.station k).pushPending = false ∧
        (t.station k).laneMask = (s.station k).laneMask ∧ (t.station k).laneMap = (s.station k).laneMap ∧
        (t.station k).noFail = (s.station k).noFail ∧ (t.station k).reportLevel = (s.station k).reportLevel ∧
        (t.station k).lookahead = (s.station k).lookahead ∧ (t.station k).counts = Vector.replicate 15 0 ∧
        (t.station k).intake = Intake.empty ∧ (t.station k).endAccepted = false ∧ (t.station k).endPassed = false ∧
        (t.station k).starving = false ∧ (t.station k).starved = false ∧ (t.station k).heldCloses = [] ∧
        (t.station k).holds = [] ∧ (t.station k).carriedIn = 0) ∧
      t.scanner.period = s.scanner.period ∧ t.scanner.lastStart = s.scanner.lastStart ∧
      t.scanner.devices = s.scanner.devices ∧
      t.scanner.round = (s.scanner.round.map fun r => { r with void := true }) ∧
      (∀ c : PanelId, t.scanner.channels[c] =
        { s.scanner.channels[c] with
          contact := if (s.scanner.devices[deviceOf c]).presence = .absent then .fault else .up,
          dwell := 0, crossing := none, stuckCount := 0 }) ∧
      (∀ k : StationId, t.scanner.groups[k] = { s.scanner.groups[k] with job := none }) ∧
      t.cue.memory = s.cue.memory ∧
      (∀ c : ChannelId, t.cue.channels[c] =
        { s.cue.channels[c] with
          state := .off, pointer := 0, waiting := [], overrun := false, lastLine := none, serial := 0 }) ∧
      (∀ n : LineId, t.cue.lines[n] =
        { base := (s.cue.lines[n]).base, current := (s.cue.lines[n]).base, owner := none }) ∧
      t.link.reports = [] ∧ t.link.loss = 0 ∧ t.link.slot = none ∧ t.link.resetDue = false ∧
      t.link.framer = s.link.framer ∧ t.link.gap = s.link.gap ∧ t.link.ended = s.link.ended ∧
      t.link.current = s.link.current ∧ t.link.mask = s.link.mask ∧ t.link.rate = s.link.rate ∧
      t.link.rxd = s.link.rxd ∧ t.link.tx = s.link.tx)

/-- R186: after a pin reset the part is as right after reset, with the link rate of the straps; the commands that wait
and the fields that decide open orders stay (the model's choice, log 22). The values of a pin reset as the tables of
R17, R36, R38, R63, R65, R117, R123, R150, R154, R156, R170 and R186 give them. The model's own choices among what a pin
reset leaves: RXD is high (log 16), also where it was low when RESET was released (log 38), reference time and the last
round's start are 0 (log 11), and the next entry's serial is 0 (log 24). -/
def Obligations.PinResetAndItsValues : Prop :=
  (∀ (straps : BitVec 2) (s : State),
    exec (.pinReset straps) s =
      .next { State.reset with
        pending := s.pending, choices := s.choices, choiceCount := s.choiceCount,
        link := { State.reset.link with rate :=
          match straps.toNat with
          | 0 => .r115200
          | 1 => .r460800
          | 2 => .r921600
          | _ => .r2000000 } }) ∧
  (let s := State.reset
  s.clock.songTime = 0 ∧ s.clock.watch = .absent ∧ s.clock.watchTimer = none ∧ s.clock.map = [] ∧ s.clock.origin = 0 ∧
    s.clock.measure = 0 ∧ s.clock.nextPulse = none ∧ s.scanner.period = 1000 ∧ s.scanner.round = none ∧
    (∀ d : DeviceId, s.scanner.devices[d] = { presence := .present, unanswered := 0, answered := 0 }) ∧
    (∀ c : PanelId, s.scanner.channels[c] =
      { contact := .up, dwell := 0, crossing := none, stuckCount := 0, reading := 0, level := 0, baseline := 0,
        p := 180, q := 120, dp := 2, dr := 3 }) ∧
    (∀ k : StationId, s.scanner.groups[k] = { job := none, uncalibrated := true, lastUnsettled := 0 }) ∧
    (∀ k : StationId, (s.station k).state = .vacant ∧ (s.station k).laneMask = 0x1FF#9 ∧
      (s.station k).laneMap = .identity ∧ (s.station k).noFail = false ∧ (s.station k).reportLevel = .results ∧
      (s.station k).lookahead = 96000 ∧ (s.station k).queue = [] ∧ (s.station k).stack = [] ∧
      (s.station k).pushPending = false ∧ (s.station k).counts = Vector.replicate 15 0 ∧
      (s.station k).intake =
        { lastTick := none, lastFrame := none, lastKind := none, lastClose := none, lastLanes := 0, chordCount := 0,
          tails := Vector.replicate 9 none, sealedTick := none, nextSeq := 0 } ∧
      (s.station k).endAccepted = false ∧ (s.station k).endPassed = false ∧ (s.station k).starving = false ∧
      (s.station k).starved = false ∧ (s.station k).heldCloses = [] ∧ (s.station k).holds = [] ∧
      (s.station k).carriedIn = 0 ∧
      (s.station k).context =
        { accumulator := 0, ovf := false, combo := 0, maxCombo := 0, rung := 0, life := 0,
          tally := { counts := ⟨0, 0, 0, 0, 0, 0, 0, 0⟩, strays := 0, wouldHaveFailed := false } }) ∧
    s.windows = { w1 := 1080, w2 := 2160, w3 := 4320, w4 := 6480, wm := 2160, lg := 12000 } ∧
    s.scoring.lifeMax = 1000 ∧ s.scoring.lifeStart = 500 ∧
    s.scoring.weights = ⟨100, 80, 50, 10, 0, 60, 0, -50⟩ ∧ s.scoring.deltas = ⟨8, 6, 2, -20, -60, 4, -40, -50⟩ ∧
    s.ladder = [{ threshold := 0, multiplier := 16 }] ∧ s.song.state = .stopped ∧ s.song.armed = 0 ∧
    s.song.startFrame = 0 ∧ s.song.latch = false ∧
    s.song.abortSet = { now := false, atMeasure := false, onFail := false, atMeasureN := false } ∧
    s.song.abortMeasure = 0 ∧ s.song.halt = .stopped 0 ∧
    s.song.cause = .none ∧ (∀ n : LineId, s.cue.lines[n] = { base := 0, current := 0, owner := none }) ∧
    (∀ slot : SlotId, s.cue.memory[slot] = { mode := .fixed, line := 0, level := 0, duration := 1 }) ∧
    (∀ c : ChannelId, s.cue.channels[c] =
      { config := { first := 0, count := 1, mode := .single, endAction := .stop, retrigger := .restart, source := .none,
                    stations := 0, lanes := 0, results := 0, k := 0 },
        state := .off, pointer := 0, waiting := [], overrun := false, lastLine := none, serial := 0 }) ∧
    s.link.framer = .hunt ∧ s.link.current = [] ∧ s.link.gap = .stopped ∧ s.link.ended = [] ∧ s.link.slot = none ∧
    s.link.reports = [] ∧ s.link.loss = 0 ∧ s.link.mask = 0x03FFEF#24)

/-! ### The link port's requests (R183 to R185) and how a request command arrives (log 1) -/

/-- R184: IDENTIFY is answered OK in every state and changes nothing; the reply's fields. -/
def Obligations.IdentifyIsAnsweredOk : Prop :=
  ∀ s : State, s.ready →
    exec .identify s = .next (s.replied
      { kind := 0x81#8, thenReset := false,
        payload := [0x00#8, 0x5A#8, 0x04#8, 0x41#8, 4#8, 9#8, 192#8, 4#8, 1#8, 0#8, 8#8, 48#8, 64#8] })

/-- R185: SYSTEM_RESET is answered OK and the reset waits for the OK to leave. R183: NOTICE_MASK_SET replaces the mask,
or is refused for a kind that does not exist. A request command whose link port is closed arrives as the bytes of its
frame, and one whose count no frame can carry is answered BAD_LENGTH (R187) at once (both the model's choice, log 1). -/
def Obligations.LinkPortRequestsAndHowARequestArrives : Prop :=
  (∀ s : State, s.ready →
    exec .systemReset s = .next (s.replied { kind := 0x82#8, payload := [0x00#8], thenReset := true }) ∧
    ∀ mask : BitVec 24,
      ((∃ i, 18 ≤ i ∧ mask.getLsbD i = true) →
        exec (.noticeMaskSet mask) s = .next (s.answered (.noticeMaskSet mask) .badValue [])) ∧
      ((∀ i, 18 ≤ i → mask.getLsbD i = false) →
        exec (.noticeMaskSet mask) s =
          .next ((s.mapLink fun l => { l with mask := mask }).answered (.noticeMaskSet mask) .ok (be24 mask)))) ∧
  (∀ (i : Instr) (s : State), i.kind ≠ none →
    (s.link.isOpen = false → exec i s = .next (i.frame.foldl (fun t b => t.mapLink (LinkPort.receiveByte s.refTime b false)) s)) ∧
    (s.ready → i.wf = false → exec i s = .next (s.answered i .badLength []))) ∧
  (∀ (b : Byte) (error : Bool) (s : State),
    exec (.rxdByte b error) s = .next (s.mapLink (LinkPort.receiveByte s.refTime b error)))

end

/-! ### The song clock (chapter 01) -/

section
open Sys2Proof Sys2Proof.Machine

/-- R7: TEMPO_CLEAR is refused with STATE in an active song or while a note queue holds an entry; else the map is emptied
and the origin taken, and nothing else changes but the reply. -/
def Obligations.TempoClearResult : Prop :=
  ∀ (origin : Word) (s : State), s.ready →
    ((s.songActive ∨ ∃ k, (s.station k).queue ≠ []) →
      exec (.tempoClear origin) s = .next (s.answered (.tempoClear origin) .state [])) ∧
    ((s.song.state = .stopped ∨ s.song.state = .finished) → (∀ k, (s.station k).queue = []) →
      exec (.tempoClear origin) s =
        .next ((s.mapClock fun c => { c with map := [], origin := origin.toInt }).answered (.tempoClear origin) .ok []))

/-- R8: TEMPO_PUT appends all its segments or none: the new map is the old map followed by the new segments in their
order; each refusal of R9 names the index of the refused segment. R9: the segments are checked one after another, each
against the segment before it as if that were appended, and the request is accepted where every one passes. R6, R9: the
checks of one segment, in their order, and the start frame of the segment that passes them. -/
def Obligations.TempoPutAndItsSegments : Prop :=
  (∀ (segments : List SegmentRec) (s : State), s.ready → 1 ≤ segments.length → segments.length ≤ 16 →
    let i := Instr.tempoPut segments
    ((s.songActive ∨ ∃ k, (s.station k).queue ≠ []) → exec i s = .next (s.answered i .state [])) ∧
    (¬ s.songActive → (∀ k, (s.station k).queue = []) →
      (64 < s.clock.map.length + segments.length → exec i s = .next (s.answered i .full [])) ∧
      (s.clock.map.length + segments.length ≤ 64 →
        (∀ before r after c taken, segments = before ++ r :: after →
          appendSegments s.clock.origin s.clock.map before 0 = .ok taken →
          checkSegment s.clock.origin taken.getLast? r = .error c →
          exec i s = .next (s.answered i c [BitVec.ofNat 8 before.length])) ∧
        (∀ taken last, appendSegments s.clock.origin s.clock.map segments 0 = .ok taken → taken.getLast? = some last →
          exec i s =
            .next ((s.mapClock fun c => { c with map := taken }).answered i .ok
              (BitVec.ofNat 8 taken.length :: be32 (BitVec.ofInt 32 last.startFrame)))))) ∧
    (∀ (origin : Int) (map taken : List Segment) (i : Nat), appendSegments origin map segments i = .ok taken →
      taken.take map.length = map ∧ taken.length = map.length + segments.length ∧
      ∀ j r, segments[j]? = some r → ∃ seg, taken[map.length + j]? = some seg ∧
        checkSegment origin (taken.take (map.length + j)).getLast? r = .ok seg)) ∧
  (∀ (origin : Int) (before : Option Segment) (r : SegmentRec),
    let tick := r.startTick.toNat
    let own : Prop := (r.kind = 0#8 ∧ 65536 ≤ r.fpbRaw.toNat ∧ 1 ≤ r.beats.toNat ∧ r.beats.toNat ≤ 16) ∨
      (r.kind = 1#8 ∧ 1 ≤ r.stopLength.toNat ∧ r.stopLength.toNat ≤ 16777216)
    let body := if r.kind = 0#8 then SegmentBody.beat r.fpbRaw.toNat r.beats.toNat else .stop r.stopLength.toNat
    (¬ own → checkSegment origin before r = .error .badValue) ∧
    (own → before = none → (r.kind ≠ 0#8 ∨ tick ≠ 0) → checkSegment origin before r = .error .badValue) ∧
    (own → before = none → r.kind = 0#8 → tick = 0 → -2147483648 ≤ origin → origin ≤ 2147483647 →
      checkSegment origin before r = .ok { startTick := 0, startFrame := origin, body := body }) ∧
    (∀ b start, own → before = some b →
      ((∀ fpb beats, b.body = .beat fpb beats →
          start = b.startFrame + Int.ofNat ((tick - b.startTick) * fpb / 3145728)) ∧
        (∀ length, b.body = .stop length → start = b.startFrame + Int.ofNat length)) →
      (tick < b.startTick → checkSegment origin before r = .error .order) ∧
      (b.startTick < tick → (∃ length, b.body = .stop length) → checkSegment origin before r = .error .order) ∧
      (tick = b.startTick → (∃ fpb beats, b.body = .beat fpb beats) →
        checkSegment origin before r = .error .duplicate) ∧
      (((b.startTick < tick ∧ ∃ fpb beats, b.body = .beat fpb beats) ∨
          (tick = b.startTick ∧ ∃ length, b.body = .stop length)) →
        ((start < -2147483648 ∨ 2147483647 < start) → checkSegment origin before r = .error .badValue) ∧
        (-2147483648 ≤ start → start ≤ 2147483647 →
          checkSegment origin before r = .ok { startTick := tick, startFrame := start, body := body })))) ∧
  (∀ (origin : Int) (map : List Segment) (i : Nat), appendSegments origin map [] i = .ok map ∧
    ∀ (r : SegmentRec) (rest : List SegmentRec),
      (∀ seg, checkSegment origin map.getLast? r = .ok seg →
        appendSegments origin map (r :: rest) i = appendSegments origin (map ++ [seg]) rest (i + 1)) ∧
      ∀ c, checkSegment origin map.getLast? r = .error c → appendSegments origin map (r :: rest) i = .error (c, i))

/-- R10: the frame of a tick by its governing segment: the first of those that start at the tick, or the last of those
that start before it where none starts at it; in a tempo map of R9's shape the conversion is non-decreasing. R12: where
the measure pulses of a tempo map stand: in each BEAT segment at its start tick and every 48 times beats ticks after it,
before the start tick of the next segment and at no frame above 2^31 - 1; a STOP places none. R13: the first pulse at or
after a frame is the first of them in placing order, or there is none. -/
def Obligations.TickConversionAndMeasurePulses : Prop :=
  (∀ (before after : List Segment) (seg : Segment) (tick : Nat) (frame : Int),
    (((∀ x ∈ before, x.startTick < tick) ∧ seg.startTick = tick) ∨
      (seg.startTick < tick ∧ (∀ x ∈ before, x.startTick ≠ tick) ∧ ∀ x ∈ after, tick < x.startTick)) →
    ((∀ fpb beats, seg.body = .beat fpb beats →
        frame = seg.startFrame + Int.ofNat ((tick - seg.startTick) * fpb / 3145728)) ∧
      (∀ length, seg.body = .stop length → frame = seg.startFrame)) →
    convert [] tick = .noMap ∧
    (-2147483648 ≤ frame → frame ≤ 2147483647 → convert (before ++ seg :: after) tick = .frame frame) ∧
    ((frame < -2147483648 ∨ 2147483647 < frame) → convert (before ++ seg :: after) tick = .outOfRange)) ∧
  (∀ (map : List Segment) (f : Int),
    (∀ seg ∈ map, ∀ fpb beats, seg.body = .beat fpb beats → 1 ≤ fpb ∧ 1 ≤ beats) →
    let stands := fun p : Pulse => ∃ seg fpb beats, map[p.segment]? = some seg ∧ seg.body = .beat fpb beats ∧
      (∀ next, map[p.segment + 1]? = some next → seg.startTick + p.index * (48 * beats) < next.startTick) ∧
      p.frame = seg.startFrame + Int.ofNat (p.index * (48 * beats) * fpb / 3145728) ∧ p.frame ≤ 2147483647
    (∀ p, firstPulse map 0 f = some p ↔ stands p ∧ f ≤ p.frame ∧
      ∀ q, stands q → f ≤ q.frame → p.segment < q.segment ∨ (p.segment = q.segment ∧ p.index ≤ q.index)) ∧
    (firstPulse map 0 f = none ↔ ∀ p, stands p → p.frame < f)) ∧
  (∀ (map : List Segment) (a b : Nat) (f g : Int), TempoMapOk map → a ≤ b → convert map a = .frame f →
    convert map b = .frame g → f ≤ g)

/-- R1, R3, R4: a WCLK edge that neither counts, starts the song nor ends a halt makes the watch PRESENT and restarts
its timer, and does nothing else. R1, R3, R14, R27: an edge counted in RUNNING adds 1 to song time; a pulse due at the
new song time raises the measure number by 1, moves the next pulse on and is taken by the stuck counts; nothing else of
the clock or the scanner changes. -/
def Obligations.WclkEdgesOutsideTheStart : Prop :=
  (∀ s : State,
    (s.song.state = .stopped ∨ s.song.state = .finished ∨ (s.song.state = .armed ∧ s.song.latch = false) ∨
      (s.song.state = .halted ∧ s.clock.watch = .present)) →
    exec .wclkEdge s =
      .next (s.mapClock fun c => { c with watch := .present, watchTimer := some s.refTime }).settle) ∧
  (∀ s : State, s.song.state = .running →
    let time := s.clock.songTime + 1
    let edge := { s.clock with songTime := time, watch := .present, watchTimer := some s.refTime }
    ∃ t, exec .wclkEdge s = .next t ∧ SharedKept s t ∧ t.refTime = s.refTime ∧
      ((∃ p, s.clock.nextPulse = some p ∧ p.frame = time.toInt) →
        t.clock = { edge with measure := s.clock.measure + 1,
                              nextPulse := firstPulse s.clock.map 0 (time.toInt + 1) } ∧
        t.scanner = s.scanner.takePulse (s.clock.measure + 1)) ∧
      ((∀ p, s.clock.nextPulse = some p → p.frame ≠ time.toInt) → t.clock = edge ∧ t.scanner = s.scanner))

/-- R1, R14, R15, R69, R106: an edge counted in RUNNING. Every PLAYING station is handed the change of song time, and
the evaluation of starvation where it sets a flag; its engine opens the windows that are due, takes the markers, takes
the closes and takes the holds, and a pending push is tested. Of a pulse that is due, song control takes its delivery
after the engines (the model's choice, log 8); the hand-offs come in some order (log 6). R83, R166, R180: what each
posts, its reports in the order of offering and its triggers to each channel in the order of raising, arrives in some
interleaving with the posts of the others (log 33). R69: an opening TAP or HOLD opens its chord and seals its tick. -/
def Obligations.CountedEdgeIsTakenInFourPhases : Prop :=
  (∀ s : State, s.song.state = .running →
    let counted := s.mapClock fun c =>
      { c with songTime := c.songTime + 1, watch := .present, watchTimer := some s.refTime }
    let fired := counted.mapClock fun c =>
      { c with measure := c.measure + 1, nextPulse := firstPulse c.map 0 (c.songTime.toInt + 1) }
    let m := s.clock.measure + 1
    let hands : State → List HandOff := fun t =>
      (allStations.filter fun k => decide ((s.station k).state = .playing)).flatMap fun k =>
        (if t.starvingDue k = true ∨ t.starvedDue k = true then [.starve k] else []) ++ [.engine k]
    ((∀ p, s.clock.nextPulse = some p → p.frame ≠ counted.clock.songTime.toInt) →
      exec .wclkEdge s = .next (counted.takeHandOffs (hands counted)).flush.settle) ∧
    (∀ p, s.clock.nextPulse = some p → p.frame = counted.clock.songTime.toInt →
      ∃ (early late : List HandOff) (u : State), (early ++ late).Perm [.scannerPulse m, .cuePulse, .linkPulse m] ∧
        u = { fired with choices := u.choices, choiceCount := u.choiceCount } ∧
        exec .wclkEdge s =
          .next ((u.takeHandOffs (hands counted ++ early)).flushWith (.songPulse m :: late)).settle)) ∧
  (∀ (hs : List HandOff) (s : State),
    ∃ (order : List HandOff) (posts : List Post) (u v : State), order.Perm hs ∧
      u = { s with choices := u.choices, choiceCount := u.choiceCount } ∧
      (let taken := order.foldl (fun (acc : List (List Post) × State) h =>
        let x := acc.2.collect (State.takeHandOff h)
        (acc.1 ++ x.1.filter Post.isReport :: allCueChannels.map fun c => x.1.filter (Post.isFor c), x.2)) ([], u)
       posts.Perm taken.1.flatten ∧ (∀ l ∈ taken.1, l.Sublist posts) ∧
        v = { taken.2 with choices := v.choices, choiceCount := v.choiceCount }) ∧
      s.takeHandOffs hs = posts.foldl (fun t p => t.takePost p) v) ∧
  (∀ (f : State → State) (r : Report) (g : Trigger) (c d : ChannelId) (s : State),
    (let t := f { s with outbox := some [] }
     s.collect f = (t.outbox.getD [], { t with outbox := s.outbox })) ∧
    s.takePost (.report r) = s.offer r ∧
    (let x := s.cue.takeTrigger s.refTime c g.record
     s.takePost (.trigger g c) =
      x.2.foldl (fun t n => t.offer (.notice s.clock.songTime.toInt n)) { s with cue := x.1 }) ∧
    (Post.report r).isReport = true ∧ (Post.trigger g c).isReport = false ∧ (Post.report r).isFor c = false ∧
    ((Post.trigger g c).isFor d = true ↔ d = c)) ∧
  (∀ (k : StationId) (m : Half) (s : State),
    s.takeHandOff (.starve k) = s.evalStarvation k ∧ s.takeHandOff (.songPulse m) = s.takePulse m ∧
    s.takeHandOff (.scannerPulse m) = s.mapScanner (Scanner.takePulse m) ∧
    s.takeHandOff .cuePulse = s.raiseNow .measure ∧
    s.takeHandOff (.linkPulse m) = s.offer (.notice s.clock.songTime.toInt (.measure m)) ∧
    s.takeHandOff (.engine k) =
      ((((s.forEntries k (State.openEvent k)).forEntries k (State.markerEvent k)).forEntries k
        (State.closeEvent k)).holdPhase k).testPush k) ∧
  (∀ (k : StationId) (s : State) (f : Entry → State → State) (take : Nat → State → State),
    (∀ n t e, (t.station k).state = .playing → (t.station k).entry? n = some e → take n t = f e t) →
    (∀ n t, ((t.station k).state ≠ .playing ∨ (t.station k).entry? n = none) → take n t = t) →
    s.forEntries k f = ((s.station k).queue.map Entry.seq).foldl (fun t n => take n t) s ∧
    s.holdPhase k = ((s.station k).holds.map HoldItem.lane).foldl (fun t l => t.holdEvent k l) s) ∧
  (∀ (k : StationId) (e : Entry) (s : State) (st : Station),
    ((e.state ≠ .queued ∨ s.clock.songTime.toInt < e.openFrame s.windows) → s.openEvent k e = s) ∧
    (e.state = .queued → e.isStep = true → e.frame - Int.ofNat s.windows.w4 ≤ s.clock.songTime.toInt →
      s.openEvent k e = s.mapStation k (Station.openSteps e)) ∧
    (e ∈ st.queue → (st.queue.map Entry.seq).Nodup →
      st.openSteps e = { st with
        intake := { st.intake with sealedTick := some e.tick },
        queue := st.queue.map fun x =>
          if x.state = .queued ∧ (x.seq = e.seq ∨ (e.chord ≠ none ∧ x.isStep = true ∧ x.tick = e.tick)) then
            { x with state := .opened }
          else x }))

/-- R2, R13, R139: the start edge: song time takes the start frame, the measure number is 0, or 1 where a pulse stands at
the start frame, the next pulse is placed, the latch is cleared and the song has left ARMED. -/
def Obligations.StartEdge : Prop :=
  ∀ s : State, s.song.state = .armed → s.song.latch = true → -2147483648 ≤ s.song.startFrame →
    s.song.startFrame ≤ 2147483647 →
    ∃ t, exec .wclkEdge s = .next t ∧ SharedKept s t ∧ t.refTime = s.refTime ∧
      t.clock.songTime.toInt = s.song.startFrame ∧ t.clock.watch = .present ∧
      t.clock.watchTimer = some s.refTime ∧ t.clock.map = s.clock.map ∧ t.clock.origin = s.clock.origin ∧
      (∀ p, firstPulse s.clock.map 0 s.song.startFrame = some p → p.frame = s.song.startFrame →
        t.clock.measure = 1 ∧ t.clock.nextPulse = firstPulse s.clock.map 0 (s.song.startFrame + 1)) ∧
      ((∀ p, firstPulse s.clock.map 0 s.song.startFrame = some p → p.frame ≠ s.song.startFrame) →
        t.clock.measure = 0 ∧ t.clock.nextPulse = firstPulse s.clock.map 0 s.song.startFrame) ∧
      t.song.latch = false ∧ (t.song.state = .running ∨ t.song.state = .finished) ∧ t.song.armed = s.song.armed ∧
      t.song.startFrame = s.song.startFrame ∧ t.scanner.devices = s.scanner.devices ∧
      t.scanner.period = s.scanner.period ∧
      (∀ c : PanelId, t.scanner.channels[c] =
        { s.scanner.channels[c] with stuckCount := (t.scanner.channels[c]).stuckCount }) ∧
      ∀ k, s.song.armed.getLsbD k.val = false → t.station k = s.station k

/-- R139: what the start edge hands on: SONG_STARTED, then the start to each station of the armed set and SONG_START, in
some order (log 6), their reports and triggers in some interleaving (log 33); then a pulse due at the start frame, which
every block takes before the end events that are held (R15; that order is the model's choice, DEDUCED, log 26), then
these, and the finish where no station plays. R43, R68, R32: a LOADED station enters PLAYING, or CLEARED where its queue
holds only END_MARKs that are due; it evaluates starvation, the scanner abandons its calibration job with a cancelled
CALIBRATED, and the engine records the PRESSING lanes as carried-in and takes the start frame. That every station that
enters PLAYING has done so before the three are taken, and that these come in any order, is the model's choice (DEDUCED,
logs 25 and 36); so is that an abandoned job keeps the last unsettled mask (log 40). -/
def Obligations.StationsTakeTheStartEdge : Prop :=
  (∀ s : State, s.song.state = .armed → s.song.latch = true →
    let started := { s with
      clock := { s.clock with
        songTime := BitVec.ofInt 32 s.song.startFrame, measure := 0,
        nextPulse := firstPulse s.clock.map 0 s.song.startFrame, watch := .present, watchTimer := some s.refTime },
      scanner := { s.scanner with round := s.scanner.round.map fun r : Round => { r with stamp := s.song.startFrame } },
      song := { s.song with state := .running, latch := false, halt := .stopped 0 } }
    let announced := started.offer (.notice started.clock.songTime.toInt (.songStarted s.song.armed))
    let due := fun e : Entry => decide (e.body = .endMark) && decide (e.frame ≤ started.clock.songTime.toInt)
    let loaded := fun k : StationId => s.song.armed.getLsbD k.val && decide ((s.station k).state = .loaded)
    let ending := fun k : StationId => !(s.station k).queue.isEmpty && (s.station k).queue.all due
    let entering := allStations.filter fun k => loaded k && !ending k
    let entered : State := { announced with
      stations := Vector.ofFn fun k : StationId =>
        if k ∈ entering then { s.station k with state := .playing } else s.station k }
    let hands := ((allStations.filter fun k => loaded k && ending k).map HandOff.startClear) ++
      (entering.flatMap fun k : StationId =>
        (if entered.starvingDue k = true ∨ entered.starvedDue k = true then [.starve k] else []) ++
          (if (s.scanner.groups[k]).job ≠ none then [.abandon k] else []) ++ [.enter k]) ++ [.songStart]
    exec .wclkEdge s = .next (entered.takeHandOffs hands).startPulse.flush.finishIfNone.settle) ∧
  (∀ (k : StationId) (s : State),
    s.takeHandOff .songStart = s.raiseNow .songStart ∧
    ((s.station k).queue ≠ [] →
      (∀ e ∈ (s.station k).queue, e.body = .endMark ∧ e.frame ≤ s.clock.songTime.toInt) →
      s.takeHandOff (.startClear k) =
        (s.mapStation k fun st => { st with queue := [], endPassed := true }).endStation k .cleared) ∧
    (∃ carried : LaneSet,
      (∀ l : LaneId, carried.getLsbD l.val = true ↔ s.contactOf k l = .pressing) ∧
      s.takeHandOff (.enter k) =
        (s.mapStation k fun st => { st with carriedIn := carried }).takeHandOff (.engine k)) ∧
    ((s.scanner.groups[k]).job = none → s.takeHandOff (.abandon k) = s) ∧
    ((s.scanner.groups[k]).job ≠ none →
      s.takeHandOff (.abandon k) =
        (s.mapScanner fun sc => { sc with groups := sc.groups.set k { sc.groups[k] with job := none } }).offer
          (.notice s.clock.songTime.toInt (.calibrated k 0 true s.clock.songTime.toInt)))) ∧
  (∀ s : State,
    let m := s.clock.measure + 1
    ((∀ p, s.clock.nextPulse = some p → p.frame ≠ s.clock.songTime.toInt) → s.startPulse = s) ∧
    (∀ p, s.clock.nextPulse = some p → p.frame = s.clock.songTime.toInt →
      ∃ (early late : List Report) (u : State), (early ++ late).Perm s.link.held ∧
        u = { s with
          clock := { s.clock with
            measure := m, nextPulse := firstPulse s.clock.map 0 (s.clock.songTime.toInt + 1) },
          link := { s.link with held := late }, choices := u.choices, choiceCount := u.choiceCount } ∧
        s.startPulse =
          u.takeHandOffs ([.songPulse m, .scannerPulse m, .cuePulse, .linkPulse m] ++ early.map .report)) ∧
    (s.song.state = .running → (∀ k, s.song.armed.getLsbD k.val = true → (s.station k).state ≠ .playing) →
      s.finishIfNone.song =
        { s.song with state := .finished, cause := .complete, abortSet := AbortSet.empty,
                      halt := .stopped (s.song.halt.ms s.refTime) } ∧
      s.finishIfNone.stations = s.stations) ∧
    ((s.song.state ≠ .running ∨ ∃ k, s.song.armed.getLsbD k.val = true ∧ (s.station k).state = .playing) →
      s.finishIfNone = s))

/-- R3, R141: the watch timer's expiry makes the watch ABSENT; in RUNNING the song halts, its halt timer starts and
CLOCK_LOST is offered. R4, R142: the edge that ends an absence in HALTED is not counted; the song leaves HALTED and the
halt timer stops. R143, R145: the halt timer's expiry aborts the song with cause CLOCK: the armed PLAYING stations enter
ABORTED with their queues drained, the others stay as they are, and song time keeps its value. That reference time moves
to the later of now and the moment of the expiry (log 3), and that the halt timer shows 499 ms at most after a resume
(log 14), are the model's choices. -/
def Obligations.WatchTimerResumeEdgeAndHaltTimerExpiry : Prop :=
  ((∀ (s : State) (since : Nat), s.clock.watchTimer = some since →
    let now := max s.refTime (since + 32000)
    let lost := { s with refTime := now, clock := { s.clock with watch := .absent, watchTimer := none } }
    (s.song.state ≠ .running → exec .watchTimerExpiry s = .next lost.settle) ∧
    (s.song.state = .running →
      exec .watchTimerExpiry s =
        .next ((lost.mapSong fun g => { g with state := .halted, halt := .running now }).offer
          (.notice s.clock.songTime.toInt .clockLost)).settle)) ∧
  (∀ s : State, s.song.state = .halted → s.clock.watch = .absent →
    ∃ t, exec .wclkEdge s = .next t ∧ SharedKept s t ∧ t.refTime = s.refTime ∧ t.scanner = s.scanner ∧
      t.clock = { s.clock with watch := .present, watchTimer := some s.refTime } ∧
      (t.song.state = .running ∨ t.song.state = .finished) ∧ ∃ ms, ms ≤ 499 ∧ t.song.halt = .stopped ms)) ∧
  (∀ (s : State) (since : Nat), s.song.state = .halted → s.song.halt = .running since →
    ∃ t, exec .haltTimerExpiry s = .next t ∧ SharedKept s t ∧ t.refTime = max s.refTime (since + 8000000) ∧
      t.clock = s.clock ∧ t.scanner = s.scanner ∧ t.song.state = .finished ∧ t.song.cause = .clock ∧
      t.song.abortSet = AbortSet.empty ∧ t.song.halt = .stopped 500 ∧ t.song.armed = s.song.armed ∧
      (∀ k, s.song.armed.getLsbD k.val = true → (s.station k).state = .playing →
        (t.station k).state = .aborted ∧ (t.station k).queue = [] ∧ (t.station k).pushPending = false) ∧
      (∀ k, (s.song.armed.getLsbD k.val = false ∨ (s.station k).state ≠ .playing) → t.station k = s.station k))

/-- R142: the edge that ends an absence in HALTED: CLOCK_BACK, then the resume to each PLAYING station of the armed set,
in some order, their reports and triggers in some interleaving (logs 6 and 33), all before an end event that one raises
(the model's choice, log 35); the halt timer's milliseconds are below 500 (log 14). R88, R97: a resume opens the windows
that are due, takes the markers, examines the held closes in their order, then takes the holds: each deadline is NONE
where the lane is DOWN and else starts anew, and a hold whose tail has been reached is given HOLD_OK. R88: an item whose
waiting lanes all left PRESSING in the halt takes effect as a MISS where an entry of it is still OPEN, also where such a
lane is PRESSING again (read from R88's sentence over R76's table, DEDUCED, log 34); any other item is examined by R76.
R87, R97: contact events while HALTED: a PRESS or WITHDRAWN takes its lane off the lanes that held items wait on, and
none is examined. -/
def Obligations.EnginesTakeTheResume : Prop :=
  (∀ s : State, s.song.state = .halted → s.clock.watch = .absent →
    let ms := min 499 (s.song.halt.ms s.refTime)
    let back := { s with
      clock := { s.clock with watch := .present, watchTimer := some s.refTime },
      song := { s.song with state := .running, halt := .stopped ms } }
    let announced := back.offer (.notice s.clock.songTime.toInt (.clockBack ms))
    let playing := allStations.filter fun k => s.song.armed.getLsbD k.val && decide ((s.station k).state = .playing)
    exec .wclkEdge s = .next (announced.takeHandOffs (playing.map .resume)).flush.settle) ∧
  (∀ (k : StationId) (s : State),
    let opened := (s.forEntries k (State.openEvent k)).forEntries k (State.markerEvent k)
    let examined := ((opened.station k).heldCloses.map HeldClose.seq).foldl (fun t n => t.examineAtResume k n) opened
    s.takeHandOff (.resume k) = s.resume k ∧
    ((s.station k).state ≠ .playing → s.resume k = s) ∧
    ((s.station k).state = .playing → (examined.station k).state = .playing →
      s.resume k = (examined.resumeHolds k).testPush k) ∧
    ((s.station k).state = .playing → (examined.station k).state ≠ .playing → s.resume k = examined) ∧
    s.resumeHolds k =
      (s.station k).holds.foldl (fun t h => t.okIfTailReached k h.seq) (s.mapStation k fun st =>
        { st with holds := st.holds.map fun h => { h with
          deadline :=
            if s.contactOf k h.lane = .down ∨ s.contactOf k h.lane = .releasing then .none
            else .pending (s.clock.songTime.toInt + Int.ofNat s.windows.lg) } }) ∧
    (∀ n e, (s.station k).entry? n = some e → (s.station k).state = .playing →
      (e.tailFrame ≤ s.clock.songTime.toInt → s.okIfTailReached k n = s.giveHoldOk k n) ∧
      (s.clock.songTime.toInt < e.tailFrame → s.okIfTailReached k n = s)) ∧
    (∀ n, ((s.station k).state ≠ .playing ∨ (s.station k).entry? n = none) → s.okIfTailReached k n = s)) ∧
  (∀ (k : StationId) (n : Nat) (s : State), (s.station k).state = .playing →
    let dropped := s.mapStation k fun st => { st with heldCloses := st.heldCloses.filter fun h => decide (h.seq ≠ n) }
    ((∀ h ∈ (s.station k).heldCloses, h.seq = n → h.waits ≠ 0) → s.examineAtResume k n = s.examine k n) ∧
    (∀ h ∈ (s.station k).heldCloses, h.seq = n → h.waits = 0 →
      ((s.station k).entry? n = none → s.examineAtResume k n = dropped) ∧
      (∀ e, (s.station k).entry? n = some e →
        ((∀ x ∈ (s.station k).group e, x.state ≠ .opened) → s.examineAtResume k n = dropped) ∧
        ((∃ x ∈ (s.station k).group e, x.state = .opened) →
          s.examineAtResume k n = dropped.missGroup k ((s.station k).group e) e)))) ∧
  (∀ (c : ContactEvent) (s : State), (s.station c.station).state = .playing → s.song.state = .halted →
    (∀ cause, c.kind = .release cause → s.takeContact c = s.testPush c.station) ∧
    ((c.kind = .press ∨ c.kind = .withdrawn) →
      s.takeContact c =
        (s.mapStation c.station fun st =>
          { st with
            carriedIn := st.carriedIn &&& ~~~(1#9 <<< c.lane.val),
            heldCloses := st.heldCloses.map fun h => { h with waits := h.waits &&& ~~~(1#9 <<< c.lane.val) }
          }).testPush c.station))

/-! ### The scanner (chapter 02) -/

/-- R20: SCAN_SET stores one of its three periods. R29: PANEL_SET stores its four values in the lanes of its mask. R30:
CALIBRATE and its refusals, and the job that it starts. R34: PANEL_READ is answered with the scanner's values of its
station and changes nothing. -/
def Obligations.ScannerRequests : Prop :=
  (∀ s : State, s.ready →
    (∀ period : Half, (period = 500#16 ∨ period = 1000#16 ∨ period = 2000#16) →
      exec (.scanSet period) s =
        .next ((s.mapScanner fun sc => { sc with period := period.toNat }).answered (.scanSet period) .ok [])) ∧
    (∀ period : Half, period ≠ 500#16 → period ≠ 1000#16 → period ≠ 2000#16 →
      exec (.scanSet period) s = .next (s.answered (.scanSet period) .badValue [])) ∧
    (∀ r : PanelRec,
      (3 < r.station.toNat ∨ r.laneMask.extractLsb' 0 9 = 0 ∨ r.p.toNat < 1 ∨ 1023 < r.p.toNat ∨ r.q.toNat < 1 ∨
        r.p.toNat ≤ r.q.toNat ∨ r.dp.toNat < 1 ∨ 8 < r.dp.toNat ∨ r.dr.toNat < 1 ∨ 8 < r.dr.toNat) →
      exec (.panelSet r) s = .next (s.answered (.panelSet r) .badValue [])) ∧
    (∀ r : PanelRec, r.station.toNat ≤ 3 → r.laneMask.extractLsb' 0 9 ≠ 0 → 1 ≤ r.p.toNat → r.p.toNat ≤ 1023 →
      1 ≤ r.q.toNat → r.q.toNat < r.p.toNat → 1 ≤ r.dp.toNat → r.dp.toNat ≤ 8 → 1 ≤ r.dr.toNat → r.dr.toNat ≤ 8 →
      ∃ sc : Scanner,
        exec (.panelSet r) s = .next ((s.mapScanner fun _ => sc).answered (.panelSet r) .ok []) ∧
        (∀ c : PanelId, sc.channels[c] =
          if c.val / 9 = r.station.toNat ∧ r.laneMask.getLsbD (c.val % 9) = true then
            { s.scanner.channels[c] with p := r.p.toNat, q := r.q.toNat, dp := r.dp.toNat, dr := r.dr.toNat }
          else s.scanner.channels[c]) ∧
        sc = { s.scanner with channels := sc.channels })) ∧
  (∀ (b : Byte) (s : State), s.ready →
    (3 < b.toNat →
      exec (.calibrate b) s = .next (s.answered (.calibrate b) .badValue []) ∧
      exec (.panelRead b) s = .next (s.answered (.panelRead b) .badValue [])) ∧
    (∀ k : StationId, b.toNat = k.val →
      exec (.panelRead b) s = .next (s.answered (.panelRead b) .ok (s.panelBytes k)) ∧
      ((s.station k).state = .playing → exec (.calibrate b) s = .next (s.answered (.calibrate b) .state [])) ∧
      ((s.station k).state ≠ .playing → (s.scanner.groups[k]).job ≠ none →
        exec (.calibrate b) s = .next (s.answered (.calibrate b) .busy [])) ∧
      ((s.station k).state ≠ .playing → (s.scanner.groups[k]).job = none →
        ∃ job : CalJob, exec (.calibrate b) s =
            .next ((s.mapScanner fun sc =>
              { sc with groups := sc.groups.set k { sc.groups[k] with job := some job } }).answered (.calibrate b)
                .pending []) ∧
          job.rounds = 0 ∧ (job.skip = true ↔ s.scanner.round ≠ none) ∧
          ∀ l : LaneId, (job.lanes[l]).sum = 0 ∧
            ((job.lanes[l]).unsettled = true ↔
              (s.scanner.devices[deviceOf (panelOf k l)]).presence = .absent))))

/-- R19, R20: a round starts one scan period after the last start, or at once where that moment is past (that reference
time moves there is the model's choice, log 3), and records song time as its stamp. R19, R36: a round end does to the
scanner what the rules of chapter 02 say, whatever its events lead to elsewhere, and leaves the song clock and the
shared tables; which of the stuck check and the entry into FAULT comes first for a channel due for both is open (log
17). A round that a system reset took only ends. -/
def Obligations.ScanRounds : Prop :=
  (∀ s : State, s.scanner.round = none →
    let start := max s.refTime (s.scanner.lastStart + s.scanner.period * 16)
    exec .scanRoundStart s =
      .next { s with
        refTime := start,
        scanner := { s.scanner with
          lastStart := start, round := some { stamp := s.clock.songTime.toInt, void := false } } }) ∧
  (∀ (data : RoundData) (s : State) (r : Round), s.scanner.round = some r →
    (r.void = false → ∃ t stuckFirst, exec (.scanRoundEnd data) s = .next t ∧
      t.scanner = (s.scanner.roundEnd stuckFirst r.stamp data).scanner ∧ t.scanner.round = none ∧ t.clock = s.clock ∧
      t.refTime = s.refTime ∧ SharedKept s t) ∧
    (r.void = true → ∃ t, exec (.scanRoundEnd data) s = .next t ∧
      t = { s with scanner := t.scanner } ∧ t.scanner.round = none ∧ t.scanner.channels = s.scanner.channels ∧
      t.scanner.devices = s.scanner.devices))

/-- R19, R21 to R28, R31: a round end works on each of the 36 channels by the turn of its device, updates each of the
five devices, and hands on the events of each station in lane order, PANEL_STUCK for each channel that enters STUCK,
PANEL_FAULT and PANEL_OK for each station on a device that is lost or returns, and, after the station's other items,
CALIBRATED for a job that ends. R31: a running job takes the round by its lanes, unless the round was in progress when
it began; at 64 rounds it ends, with the new baselines and the unsettled mask. Items of different stations come in some
order (the model's choice, log 31), between them the end events on their way may be taken (log 6). R180: what the items
post arrives behind them in some interleaving, the reports of one engine in their order and CALIBRATED behind the
station's others (logs 31 and 33). Until an event is taken its channel may still show its old contact state (log 20). -/
def Obligations.RoundEndOfEveryChannelAndDevice : Prop :=
  (∀ (sc : Scanner) (stuckFirst : Bool) (stamp : Int) (data : RoundData),
    let o := sc.roundEnd stuckFirst stamp data
    let turn := fun d : DeviceId => (sc.devices[d]).turn ((data.of d).answered d)
    let reading := fun k l => (data.of (deviceOf (panelOf k l))).reading (inputOf (panelOf k l))
    let work := fun k l =>
      (sc.channels[panelOf k l]).roundEnd stuckFirst stamp (turn (deviceOf (panelOf k l))) (reading k l)
    o.scanner.round = none ∧ o.scanner.period = sc.period ∧ o.scanner.lastStart = sc.lastStart ∧
    (∀ d : DeviceId, o.scanner.devices[d] = (sc.devices[d]).update ((data.of d).answered d)) ∧
    (∀ k l, o.scanner.channels[panelOf k l] =
      { (work k l).1 with baseline := (o.scanner.channels[panelOf k l]).baseline }) ∧
    (∀ k, (o.events.filter fun e => decide (e.station = k)) = allLanes.filterMap fun l =>
      (work k l).2.1.map fun e => { station := k, lane := l, kind := e.1, time := e.2 }) ∧
    o.notices.Nodup ∧
    (∀ n, n ∈ o.notices ↔
      (∃ k l, (work k l).2.2 = true ∧ n = .panelStuck k l stamp) ∨
      (∃ k d lanes, lanes ≠ 0 ∧ (∀ l : LaneId, lanes.getLsbD l.val = true ↔ (k.val * 9 + l.val) / 8 = d.val) ∧
        ((turn d = .lost ∧ n = .panelFault k d lanes stamp) ∨ (turn d = .returns ∧ n = .panelOk k d lanes stamp)))) ∧
    (∀ k : StationId,
      let ended := o.calibrated.filter fun n => decide (n.station = some k)
      ((sc.groups[k]).job = none →
        ended = [] ∧ o.scanner.groups[k] = sc.groups[k] ∧
          ∀ l, (o.scanner.channels[panelOf k l]).baseline = (sc.channels[panelOf k l]).baseline) ∧
      (∀ j, (sc.groups[k]).job = some j → ∃ a : CalJob, a.skip = false ∧
        (j.skip = true → a.rounds = j.rounds ∧ a.lanes = j.lanes) ∧
        (j.skip = false → a.rounds = j.rounds + 1 ∧ ∀ l : LaneId, a.lanes[l] =
          if turn (deviceOf (panelOf k l)) = .reads then
            { (j.lanes[l]) with
              sum := (j.lanes[l]).sum + reading k l, min := min (j.lanes[l]).min (reading k l),
              max := max (j.lanes[l]).max (reading k l) }
          else { (j.lanes[l]) with unsettled := true }) ∧
        (a.rounds < 64 →
          ended = [] ∧ o.scanner.groups[k] = { (sc.groups[k]) with job := some a } ∧
            ∀ l, (o.scanner.channels[panelOf k l]).baseline = (sc.channels[panelOf k l]).baseline) ∧
        (64 ≤ a.rounds → ∃ unsettled : LaneSet,
          (∀ l : LaneId, unsettled.getLsbD l.val = true ↔
            (a.lanes[l]).unsettled = true ∨ (sc.channels[panelOf k l]).q < (a.lanes[l]).max - (a.lanes[l]).min) ∧
          ended = [.calibrated k unsettled false stamp] ∧
          o.scanner.groups[k] =
            { job := none, lastUnsettled := unsettled,
              uncalibrated := if unsettled = 0 then false else (sc.groups[k]).uncalibrated } ∧
          ∀ l : LaneId, (o.scanner.channels[panelOf k l]).baseline =
            if unsettled.getLsbD l.val then (sc.channels[panelOf k l]).baseline else (a.lanes[l]).sum / 64)))) ∧
  (∀ (data : RoundData) (s : State) (r : Round), s.scanner.round = some r → r.void = false →
    ∃ (stuckFirst : Bool) (work : StationId → List RoundItem) (items : List RoundItem) (u : State),
      let o := s.scanner.roundEnd stuckFirst r.stamp data
      let list := fun k =>
        work k ++ (o.calibrated.filter fun n => decide (n.station = some k)).map RoundItem.jobEnd
      (∀ k,
        let events := (o.events.filter fun e => decide (e.station = k)).map fun e =>
          RoundItem.contact e (o.scanner.channels[panelOf e.station e.lane]).contact
        let notices := (o.notices.filter fun n => decide (n.station = some k)).map RoundItem.notice
        (work k).Perm (events ++ notices) ∧ events.Sublist (work k)) ∧
      items.Perm (allStations.flatMap list) ∧ (∀ k, (list k).Sublist items) ∧
      (u.scanner = o.scanner ∨ u.scanner = s.scanner.holdBack o.events o.scanner) ∧
      u = { s with scanner := u.scanner, choices := u.choices, choiceCount := u.choiceCount } ∧
      exec (.scanRoundEnd data) s = .next (u.takeRoundItems items []).finish) ∧
  (∀ (s : State) (n : Notice) (e : ContactEvent) (after : Contact),
    s.takeRoundItem (.notice n) = s.offer (.notice s.clock.songTime.toInt n) ∧
    s.takeRoundItem (.jobEnd n) = s.offer (.notice s.clock.songTime.toInt n) ∧
    s.takeRoundItem (.contact e after) =
      (s.mapScanner fun sc =>
        let c := panelOf e.station e.lane
        { sc with channels := sc.channels.set c { sc.channels[c] with contact := after } }).takeContact e) ∧
  (∀ (i : RoundItem) (rest : List RoundItem) (taken : List TakenItem) (s : State),
    let next := fun (done : List TakenItem) (v : State) =>
      let x := v.collect (State.takeRoundItem i)
      x.2.takeRoundItems rest (done ++ [(i, x.1)])
    s.takeRoundItems [] taken = s.deliverRound taken ∧
    (s.song.ends = [] → s.takeRoundItems (i :: rest) taken = next taken s) ∧
    (s.song.ends ≠ [] → ∃ u : State, u = { s with choices := u.choices, choiceCount := u.choiceCount } ∧
      (s.takeRoundItems (i :: rest) taken = next taken u ∨
        s.takeRoundItems (i :: rest) taken = next [] (u.deliverRound taken).flush))) ∧
  (∀ (taken : List TakenItem) (s : State),
    ∃ (mixed : StationId → List Post) (posts : List Post) (u : State),
      (∀ k,
        let reports := (enginePosts k taken).filter Post.isReport
        (mixed k).Perm (reports ++ (noticePosts k taken).flatten) ∧ reports.Sublist (mixed k)) ∧
      (let streams := allStations.flatMap fun k =>
        (mixed k ++ jobEndPosts k taken) :: allCueChannels.map fun c => (enginePosts k taken).filter (Post.isFor c)
       posts.Perm streams.flatten ∧ ∀ l ∈ streams, l.Sublist posts) ∧
      u = { s with choices := u.choices, choiceCount := u.choiceCount } ∧
      s.deliverRound taken = posts.foldl (fun t p => t.takePost p) u) ∧
  (∀ (old sc : Scanner) (events : List ContactEvent) (c : PanelId),
    let shown := old.holdBack events sc
    shown = { sc with channels := shown.channels } ∧
    ((∃ e ∈ events, panelOf e.station e.lane = c) →
      shown.channels[c] = { sc.channels[c] with contact := (old.channels[c]).contact }) ∧
    ((∀ e ∈ events, panelOf e.station e.lane ≠ c) → shown.channels[c] = sc.channels[c]))

/-- R23 to R25: a channel takes a reading: its level, its contact state, and the event it sends. R27, R28: a measure
pulse on a channel's stuck count, the stuck check at a round end, and the way out of STUCK. R19, R21, R22: a round end
of one channel by the turn of its device: a reading is taken and then the stuck check runs, the stuck check runs alone
where the device did not answer, and a lost device's channel enters FAULT. Of a channel due for STUCK whose device is
lost either comes first (the model's choice, log 17). The dwell counts after a confirmation, after a bounce or a return
to DOWN, and on leaving STUCK are the model's choice (DEDUCED, log 13), as the worked sequence of section 2.5.2 shows
them. -/
def Obligations.ContactStateMachineAndStuckPanels : Prop :=
  (∀ (c : Channel) (reading : Nat) (stamp crossing : Int),
    let c' := c.withReading reading
    c'.reading = reading ∧ c'.level = reading - c.baseline ∧
    (c.contact = .up → c'.level < c.p → c'.takeLevel stamp = (c', none)) ∧
    (c.contact = .up → c.p ≤ c'.level → c.dp = 1 →
      c'.takeLevel stamp =
        ({ c' with contact := .down, dwell := 1, stuckCount := 0, crossing := none }, some (.press, stamp))) ∧
    (c.contact = .up → c.p ≤ c'.level → c.dp ≠ 1 →
      c'.takeLevel stamp = ({ c' with contact := .pressing, dwell := 1, crossing := some stamp }, none)) ∧
    (c.contact = .pressing → c.p ≤ c'.level → c.dwell + 1 < c.dp →
      c'.takeLevel stamp = ({ c' with dwell := c.dwell + 1 }, none)) ∧
    (c.contact = .pressing → c.p ≤ c'.level → c.dp ≤ c.dwell + 1 → c.crossing = some crossing →
      c'.takeLevel stamp =
        ({ c' with contact := .down, dwell := c.dwell + 1, stuckCount := 0, crossing := none },
          some (.press, crossing))) ∧
    (c.contact = .pressing → c'.level < c.p →
      c'.takeLevel stamp = ({ c' with contact := .up, dwell := 0, crossing := none }, some (.withdrawn, stamp))) ∧
    (c.contact = .down → c.q ≤ c'.level → c'.takeLevel stamp = (c', none)) ∧
    (c.contact = .down → c'.level < c.q → c.dr ≠ 1 →
      c'.takeLevel stamp = ({ c' with contact := .releasing, dwell := 1, crossing := some stamp }, none)) ∧
    (c.contact = .down → c'.level < c.q → c.dr = 1 →
      c'.takeLevel stamp =
        ({ c' with contact := .up, dwell := 1, stuckCount := 0, crossing := none },
          some (.release .confirmed, stamp))) ∧
    (c.contact = .releasing → c'.level < c.q → c.dwell + 1 < c.dr →
      c'.takeLevel stamp = ({ c' with dwell := c.dwell + 1 }, none)) ∧
    (c.contact = .releasing → c'.level < c.q → c.dr ≤ c.dwell + 1 → c.crossing = some crossing →
      c'.takeLevel stamp =
        ({ c' with contact := .up, dwell := c.dwell + 1, stuckCount := 0, crossing := none },
          some (.release .confirmed, crossing))) ∧
    (c.contact = .releasing → c.q ≤ c'.level →
      c'.takeLevel stamp = ({ c' with contact := .down, dwell := 0, crossing := none }, none))) ∧
  (∀ (sc : Scanner) (p : PanelId) (measure : Half) (c : Channel) (e : Option ChannelEvent) (stamp : Int),
    let base := if measure = 1 then 0 else (sc.channels[p]).stuckCount
    (((sc.channels[p]).contact = .down ∨ (sc.channels[p]).contact = .releasing) →
      (sc.takePulse measure).channels[p] = { sc.channels[p] with stuckCount := min 16 (base + 1) }) ∧
    ((sc.channels[p]).contact ≠ .down → (sc.channels[p]).contact ≠ .releasing →
      (sc.takePulse measure).channels[p] = { sc.channels[p] with stuckCount := base }) ∧
    ((c.contact = .down ∨ c.contact = .releasing) → 16 ≤ c.stuckCount →
      Channel.stuckCheck stamp (c, e) =
        ({ c with contact := .stuck, dwell := 0, crossing := none }, some (.release .stuck, stamp), true)) ∧
    (((c.contact ≠ .down ∧ c.contact ≠ .releasing) ∨ c.stuckCount < 16) →
      Channel.stuckCheck stamp (c, e) = (c, e, false)) ∧
    (c.contact = .stuck → c.q ≤ c.level → c.takeLevel stamp = ({ c with dwell := 0 }, none)) ∧
    (c.contact = .stuck → c.level < c.q → c.dwell + 1 < c.dr →
      c.takeLevel stamp = ({ c with dwell := c.dwell + 1 }, none)) ∧
    (c.contact = .stuck → c.level < c.q → c.dr ≤ c.dwell + 1 →
      c.takeLevel stamp = ({ c with contact := .up, dwell := c.dwell + 1, stuckCount := 0 }, none)) ∧
    (c.contact = .fault → c.takeLevel stamp = (c, none))) ∧
  (∀ (c : Channel) (reading : Nat) (stamp : Int) (stuckFirst : Bool),
    let due : Prop := (c.contact = .down ∨ c.contact = .releasing) ∧ 16 ≤ c.stuckCount
    let lost := { c with contact := .fault, dwell := 0, crossing := none, stuckCount := 0 }
    c.roundEnd stuckFirst stamp .reads reading = Channel.stuckCheck stamp ((c.withReading reading).takeLevel stamp) ∧
    c.roundEnd stuckFirst stamp .misses reading = Channel.stuckCheck stamp (c, none) ∧
    (due → c.roundEnd false stamp .lost reading = (lost, some (.release .fault, stamp), false) ∧
      c.roundEnd true stamp .lost reading = (lost, some (.release .stuck, stamp), true)) ∧
    (¬ due → c.roundEnd stuckFirst stamp .lost reading =
      (lost,
        if c.contact = .down ∨ c.contact = .releasing then some (.release .fault, stamp)
        else if c.contact = .pressing then some (.withdrawn, stamp) else none, false)) ∧
    c.roundEnd stuckFirst stamp .away reading = (c, none, false) ∧
    c.roundEnd stuckFirst stamp .returns reading =
      ({ c with contact := .up, dwell := 0, crossing := none, stuckCount := 0 }, none, false))

/-- R21, R22: the presence record of a device, and what the round does to one of its channels that is not due for STUCK.
That an answered or a missed round of a PRESENT device leaves its answered count as it stands is the model's choice (log
39). -/
def Obligations.DevicePresence : Prop :=
  ∀ (d : Device) (c : Channel) (stamp : Int) (reading : Nat) (answered : Bool), c.stuckDue = false →
    let after := fun a => c.roundEnd false stamp (d.turn a) reading
    (d.presence = .present → (d.update true).unanswered = 0 ∧ (d.update true).presence = .present) ∧
    (d.presence = .present → d.unanswered < 2 →
      d.update false = { d with unanswered := d.unanswered + 1 } ∧ after false = (c, none, false)) ∧
    (d.presence = .present → 2 ≤ d.unanswered →
      d.update false = { presence := .absent, unanswered := 3, answered := 0 } ∧
      (after false).1 = { c with contact := .fault, dwell := 0, crossing := none, stuckCount := 0 } ∧
      ((after false).2.1 =
        if c.contact = .down ∨ c.contact = .releasing then some (.release .fault, stamp)
        else if c.contact = .pressing then some (.withdrawn, stamp) else none)) ∧
    (d.presence = .absent → (d.update false).answered = 0 ∧ (d.update false).presence = .absent) ∧
    (d.presence = .absent → d.answered < 7 →
      d.update true = { d with answered := d.answered + 1 } ∧ after true = (c, none, false)) ∧
    (d.presence = .absent → d.answered = 7 →
      d.update true = { presence := .present, unanswered := 0, answered := 8 } ∧
      after true = ({ c with contact := .up, dwell := 0, crossing := none, stuckCount := 0 }, none, false)) ∧
    (d.presence = .absent → (after answered).2 = (none, false))

end

/-! ### Stations and chart intake (chapter 03) -/

section
open Sys2Proof Sys2Proof.Machine

/-- R38: STATION_SET, its checks in their order, and the five values it stores. R39: the eight lane maps. -/
def Obligations.StationSetAndLaneMaps : Prop :=
  (∀ (r : StationRec) (s : State), s.ready →
    (3 < r.station.toNat → exec (.stationSet r) s = .next (s.answered (.stationSet r) .badValue [])) ∧
    (∀ k : StationId, r.station.toNat = k.val →
      ((((s.station k).state ≠ .vacant ∧ (s.station k).state ≠ .loaded) ∨
          ((s.station k).state = .loaded ∧ (s.station k).queue ≠ [])) →
        exec (.stationSet r) s = .next (s.answered (.stationSet r) .state [])) ∧
      (((s.station k).state = .vacant ∨ ((s.station k).state = .loaded ∧ (s.station k).queue = [])) →
        ((r.laneMask.extractLsb' 0 9 = 0 ∨ 7 < r.laneMap.toNat ∨ 1 < r.noFail.toNat ∨ 1 < r.reportLevel.toNat ∨
            r.lookahead.toNat < 1 ∨ 16777216 < r.lookahead.toNat) →
          exec (.stationSet r) s = .next (s.answered (.stationSet r) .badValue [])) ∧
        (∀ map : LaneMap, r.laneMask.extractLsb' 0 9 ≠ 0 → r.laneMap.toNat = map.code → r.noFail.toNat ≤ 1 →
          r.reportLevel.toNat ≤ 1 → 1 ≤ r.lookahead.toNat → r.lookahead.toNat ≤ 16777216 →
          exec (.stationSet r) s =
            .next ((s.mapStation k fun st =>
              { st with laneMask := r.laneMask.extractLsb' 0 9, laneMap := map,
                        noFail := decide (r.noFail = 1#8),
                        reportLevel := if r.reportLevel = 0#8 then .results else .silent,
                        lookahead := r.lookahead.toNat }).answered (.stationSet r) .ok []))))) ∧
    (allLanes.map LaneMap.identity.apply = [0, 1, 2, 3, 4, 5, 6, 7, 8] ∧
      allLanes.map LaneMap.rot90.apply = [2, 5, 8, 1, 4, 7, 0, 3, 6] ∧
      allLanes.map LaneMap.rot180.apply = [8, 7, 6, 5, 4, 3, 2, 1, 0] ∧
      allLanes.map LaneMap.rot270.apply = [6, 3, 0, 7, 4, 1, 8, 5, 2] ∧
      allLanes.map LaneMap.mirrorLr.apply = [2, 1, 0, 5, 4, 3, 8, 7, 6] ∧
      allLanes.map LaneMap.mirrorFb.apply = [6, 7, 8, 3, 4, 5, 0, 1, 2] ∧
      allLanes.map LaneMap.mirrorDiag.apply = [0, 3, 6, 1, 4, 7, 2, 5, 8] ∧
      allLanes.map LaneMap.mirrorAnti.apply = [8, 5, 2, 7, 4, 1, 6, 3, 0])

/-- R40, R41: CHART_OPEN and CHART_CLOSE. An opened station is LOADED with nothing of an earlier chart; FRESH resets its
score context and CARRY keeps it; the settings and the stack are kept. R42, R130: STATION_CLEAR in every state: the
station is VACANT with nothing of its chart, a zero context and an empty stack; its settings are kept, and every other
station. A PLAYING station hands song control its end event, which finishes the song where no other armed station plays
and else leaves it as it is (R146); a pending push is cancelled with one CHECKPOINT_CANCELLED. The order of the two (log
6), and of the reply and a report on an idle transmitter (logs 6 and 27), is open. -/
def Obligations.ChartOpenCloseAndStationClear : Prop :=
  (∀ (b : Byte) (s : State), s.ready →
    (∀ m : Byte, (3 < b.toNat ∨ 1 < m.toNat) →
      exec (.chartOpen b m) s = .next (s.answered (.chartOpen b m) .badValue [])) ∧
    (3 < b.toNat → exec (.chartClose b) s = .next (s.answered (.chartClose b) .badValue [])) ∧
    (∀ k : StationId, b.toNat = k.val →
      (∀ m : Byte, m.toNat ≤ 1 →
        (((s.station k).state = .loaded ∨ (s.station k).state = .playing) →
          exec (.chartOpen b m) s = .next (s.answered (.chartOpen b m) .state [])) ∧
        ((s.station k).state ≠ .loaded → (s.station k).state ≠ .playing →
          (s.clock.map = [] → exec (.chartOpen b m) s = .next (s.answered (.chartOpen b m) .noTempo [])) ∧
          (s.clock.map ≠ [] →
            exec (.chartOpen b m) s =
              .next ((s.mapStation k fun st =>
                { st with
                  state := .loaded, queue := [], heldCloses := [], holds := [], carriedIn := 0, intake := Intake.empty,
                  endAccepted := false, endPassed := false, starving := false, starved := false,
                  counts := Vector.replicate 15 0,
                  context := if m = 0#8 then { ScoreContext.zero with life := s.scoring.lifeStart } else st.context
                }).answered (.chartOpen b m) .ok [])))) ∧
      (((s.station k).state = .vacant ∨ (s.station k).state = .playing) →
        exec (.chartClose b) s = .next (s.answered (.chartClose b) .state [])) ∧
      ((s.station k).state ≠ .vacant → (s.station k).state ≠ .playing →
        exec (.chartClose b) s =
          .next ((s.mapStation k fun st =>
            { st with
              state := .vacant, queue := [], heldCloses := [], holds := [], carriedIn := 0, intake := Intake.empty,
              endAccepted := false, endPassed := false, starving := false, starved := false,
              counts := Vector.replicate 15 0 }).answered (.chartClose b) .ok [])))) ∧
  (∀ (b : Byte) (s : State), s.ready →
    (3 < b.toNat → exec (.stationClear b) s = .next (s.answered (.stationClear b) .badValue [])) ∧
    (∀ k : StationId, b.toNat = k.val →
      ∃ t, exec (.stationClear b) s = .next t ∧ OthersKept k s t ∧ SharedKept s t ∧ t.clock = s.clock ∧
        t.scanner = s.scanner ∧ t.cue = s.cue ∧ t.refTime = s.refTime ∧
        t.link.slot = some (replyFor (.stationClear b) .ok []) ∧
        t.station k = { s.station k with
          state := .vacant, queue := [], heldCloses := [], holds := [], carriedIn := 0, intake := Intake.empty,
          endAccepted := false, endPassed := false, starving := false, starved := false,
          counts := Vector.replicate 15 0, context := ScoreContext.zero, stack := [], pushPending := false } ∧
        ((s.station k).state ≠ .playing → t.song = s.song) ∧
        (s.song.state ≠ .running → s.song.state ≠ .halted → t.song = s.song) ∧
        ((s.station k).state = .playing → (s.song.state = .running ∨ s.song.state = .halted) →
          (∀ j, j ≠ k → s.song.armed.getLsbD j.val = true → (s.station j).state ≠ .playing) →
          t.song.state = .finished ∧ t.song.cause = .complete) ∧
        ((s.station k).state = .playing →
          (∃ j, j ≠ k ∧ s.song.armed.getLsbD j.val = true ∧ (s.station j).state = .playing) → t.song = s.song) ∧
        (let bare := s.mapStation k fun _ => t.station k
         let ended := if (s.station k).state = .playing then [HandOff.ended k .aborted] else []
         let offered :=
          if (s.station k).pushPending = true then
            [HandOff.report (.notice s.clock.songTime.toInt (.checkpointCancelled k))]
          else []
         ∃ (early late : List HandOff) (u v : State), early ++ late = offered ∧
          u = { bare with choices := u.choices, choiceCount := u.choiceCount } ∧
          (let x := (early.foldl (fun w h => w.takeHandOff h) u).takeHandOffs (ended ++ late)
           v = { x with choices := v.choices, choiceCount := v.choiceCount } ∧
            (t = v.answered (.stationClear b) .ok [] ∨
              ((x.link.reports ≠ [] ∨ 0 < x.link.loss) ∧ s.link.tx = none ∧
                t = (v.mapLink fun l =>
                  { l.beginReport with slot := some (replyFor (.stationClear b) .ok []) }).settle))))))

/-- R46: NOTES_PUT. Its checks of the whole request; then its records one at a time, up to the first that is refused.
R46, R49: the records that pass are accepted in order, each with its note id, and the first that fails ends intake with
its index and reason; a LATE refusal is counted. What the intake posts, its reports in their order and its triggers to
each channel in theirs, arrives behind it in some interleaving (log 33). -/
def Obligations.NotesPutTakesRecordsInOrder : Prop :=
  (∀ (b : Byte) (base : Half) (records : List NoteRec) (s : State), s.ready → 1 ≤ records.length →
    records.length ≤ 23 →
    let i := Instr.notesPut b base records
    (3 < b.toNat → exec i s = .next (s.answered i .badValue [])) ∧
    (∀ k : StationId, b.toNat = k.val →
      ((s.station k).state ≠ .loaded → (s.station k).state ≠ .playing →
        exec i s = .next (s.answered i .state [])) ∧
      (((s.station k).state = .loaded ∨ (s.station k).state = .playing) → (s.station k).endAccepted = true →
        exec i s = .next (s.answered i .ended [])) ∧
      (((s.station k).state = .loaded ∨ (s.station k).state = .playing) → (s.station k).endAccepted = false →
        (∀ u, State.takeRecords k base records 0 { s with outbox := some [] } = (u, records.length, none) →
          exec i s = .next (s.answer fun _ =>
            ((u.testPush k).closeOutbox none, replyFor i .ok [BitVec.ofNat 8 records.length]))) ∧
        (∀ u n c, State.takeRecords k base records 0 { s with outbox := some [] } = (u, n, some c) →
          exec i s = .next (s.answer fun _ =>
            ((u.testPush k).closeOutbox none,
              replyFor i .partialTaken [BitVec.ofNat 8 n, BitVec.ofNat 8 n, c.byte])))))) ∧
  (∀ (o : Option (List Post)) (s : State),
    let ps := s.outbox.getD []
    let streams := ps.filter Post.isReport :: allCueChannels.map fun c => ps.filter (Post.isFor c)
    ∃ (posts : List Post) (u : State), posts.Perm streams.flatten ∧ (∀ l ∈ streams, l.Sublist posts) ∧
      u = { s with outbox := o, choices := u.choices, choiceCount := u.choiceCount } ∧
      s.closeOutbox o = posts.foldl (fun t p => t.takePost p) u) ∧
  (∀ (k : StationId) (base : Half) (r : NoteRec) (rest : List NoteRec) (index : Nat) (s : State),
    s.takeRecords k base [] index = (s, index, none) ∧
    (∀ n, s.checkRecord k r = .ok n →
      s.takeRecords k base (r :: rest) index =
        (s.acceptRecord k (base + BitVec.ofNat 16 index) n).takeRecords k base rest (index + 1)) ∧
    (s.checkRecord k r = .error .late →
      s.takeRecords k base (r :: rest) index = (s.countUp k .lateRefusals 1, index, some .late)) ∧
    (∀ c, c ≠ .late → s.checkRecord k r = .error c → s.takeRecords k base (r :: rest) index = (s, index, some c)))

/-- R47, checks 0 to 3: the refusals that the record and the tempo map alone decide, and what a record of each kind that
passes them becomes, with its lane by the station's map (R39, R45). R47, checks 4 to 11, with R54, in their order, for
every kind: LANE, DUPLICATE and OVERLAP for TAP, HOLD and MINE, CHORD_LIMIT and CHORD_CLOSED for TAP and HOLD, ORDER,
LATE and FULL for all. -/
def Obligations.ChartRecordChecks : Prop :=
  (∀ (k : StationId) (r : NoteRec) (s : State),
    ((s.station k).endAccepted = true → s.checkRecord k r = .error .ended) ∧
    ((s.station k).endAccepted = false →
      ((4 < r.kind.toNat ∨ (r.kind.toNat ≤ 2 ∧ 8 < r.place.toNat) ∨ (r.kind.toNat = 3 ∧ 7 < r.place.toNat) ∨
          (r.kind.toNat = 1 ∧ (r.length.toNat = 0 ∨ 4294967295 < r.tick.toNat + r.length.toNat))) →
        s.checkRecord k r = .error .badValue) ∧
      ((r.kind.toNat ≤ 2 → r.place.toNat ≤ 8) → r.kind.toNat ≤ 4 → (r.kind.toNat = 3 → r.place.toNat ≤ 7) →
        (r.kind.toNat = 1 → 1 ≤ r.length.toNat ∧ r.tick.toNat + r.length.toNat ≤ 4294967295) →
        (s.clock.map = [] → s.checkRecord k r = .error .noTempo) ∧
        (convert s.clock.map r.tick.toNat = .outOfRange → s.checkRecord k r = .error .badValue) ∧
        (∀ f, convert s.clock.map r.tick.toNat = .frame f → r.kind.toNat = 1 →
          convert s.clock.map (r.tick.toNat + r.length.toNat) = .outOfRange →
          s.checkRecord k r = .error .badValue)))) ∧
  (∀ (map : List Segment) (lm : LaneMap) (r : NoteRec) (f : Int), convert map r.tick.toNat = .frame f →
    let place := r.place.toNat
    let made := fun kind body =>
      incomingOf map lm r = .ok { kind := kind, tick := r.tick.toNat, frame := f, body := body }
    (∀ c : LaneId, place = c.val →
      (r.kind = 0#8 → made .tap (.tap c (lm.apply c))) ∧ (r.kind = 2#8 → made .mine (.mine c (lm.apply c))) ∧
      (∀ tail, r.kind = 1#8 → 1 ≤ r.length.toNat → r.tick.toNat + r.length.toNat ≤ 4294967295 →
        convert map (r.tick.toNat + r.length.toNat) = .frame tail →
        made .hold (.hold c (lm.apply c) (r.tick.toNat + r.length.toNat) tail))) ∧
    (∀ c : ChannelId, place = c.val → r.kind = 3#8 → made .cueMark (.cueMark c)) ∧
    (r.kind = 4#8 → made .endMark .endMark)) ∧
  (∀ (k : StationId) (r : NoteRec) (n : Incoming) (s : State), (s.station k).endAccepted = false →
    incomingOf s.clock.map (s.station k).laneMap r = .ok n →
    let st := s.station k
    let t := st.intake
    let now := s.clock.songTime.toInt
    let on := fun l : LaneId => (∃ c, n.body = .tap c l) ∨ (∃ c tick f, n.body = .hold c l tick f) ∨ ∃ c, n.body = .mine c l
    let step : Prop := n.kind = .tap ∨ n.kind = .hold
    let lane : Prop := ∃ l, on l ∧ st.laneMask.getLsbD l.val = false
    let order : Prop := ∃ last, t.lastTick = some last ∧ n.tick < last
    let duplicate : Prop := t.lastTick = some n.tick ∧ ∃ l, on l ∧ t.lastLanes.getLsbD l.val = true
    let overlap : Prop := ∃ l, on l ∧ ∃ tail, t.tails[l] = some tail ∧ n.tick ≤ tail
    let limit : Prop := step ∧ t.lastTick = some n.tick ∧ 4 ≤ t.chordCount
    let closed : Prop := step ∧ t.sealedTick = some n.tick
    let late : Prop := st.state = .playing ∧
      ((step ∧ n.frame + Int.ofNat s.windows.w4 ≤ now) ∨ (n.kind = .mine ∧ n.frame + Int.ofNat s.windows.wm ≤ now) ∨
        ((n.kind = .cueMark ∨ n.kind = .endMark) ∧ n.frame < now))
    let check := s.checkRecord k r
    (lane → check = .error .lane) ∧
    (¬ lane → order → check = .error .order) ∧
    (¬ lane → ¬ order → duplicate → check = .error .duplicate) ∧
    (¬ lane → ¬ order → ¬ duplicate → overlap → check = .error .overlap) ∧
    (¬ lane → ¬ order → ¬ duplicate → ¬ overlap →
      (limit → check = .error .chordLimit) ∧
      (¬ limit → closed → check = .error .chordClosed) ∧
      (¬ limit → ¬ closed → late → check = .error .late) ∧
      (¬ limit → ¬ closed → ¬ late → 192 ≤ st.queue.length → check = .error .full) ∧
      (¬ limit → ¬ closed → ¬ late → st.queue.length < 192 → check = .ok n)))

/-- R55, R56: starvation. Where the station is PLAYING with END-accepted clear, a lookahead below L sets the starving flag
and offers STARVING with the lookahead, clamped, and a song time past the last close frame sets the starved flag and
offers STARVED; a flag that is set offers nothing. R49, R50: an accepted record clears what it reaches, then starvation
is evaluated; an END_MARK clears both flags. Where both notices are due their order is open (log 31). -/
def Obligations.StarvationFlagsAndNotices : Prop :=
  (∀ (k : StationId) (s : State),
    let st := s.station k
    let now := s.clock.songTime.toInt
    let ahead := st.intake.lastFrame.getD s.song.startFrame - now
    let close := st.intake.lastClose.getD s.song.startFrame
    let starving : Prop := st.starving = false ∧ ahead < Int.ofNat st.lookahead
    let starved : Prop := st.starved = false ∧ close < now
    let low := Report.notice now (.starving k (max (-2147483648) (min 2147483647 ahead)))
    let out := Report.notice now (.starved k)
    ((st.state ≠ .playing ∨ st.endAccepted = true) → s.evalStarvation k = s ∧ s.clearStarvation k = s) ∧
    (st.state = .playing → st.endAccepted = false →
      (¬ starving → ¬ starved → s.evalStarvation k = s) ∧
      (starving → ¬ starved →
        s.evalStarvation k = (s.mapStation k fun st => { st with starving := true }).offer low) ∧
      (¬ starving → starved →
        s.evalStarvation k = (s.mapStation k fun st => { st with starved := true }).offer out) ∧
      (starving → starved → ∃ u : State,
        u = { s.mapStation k fun st => { st with starving := true, starved := true } with
              choices := u.choices, choiceCount := u.choiceCount } ∧
        (s.evalStarvation k = (u.offer low).offer out ∨ s.evalStarvation k = (u.offer out).offer low)) ∧
      s.clearStarvation k = s.mapStation k fun st =>
        { st with starving := if Int.ofNat st.lookahead ≤ ahead then false else st.starving,
                  starved := if 0 ≤ ahead then false else st.starved }) ∧
    ((s.starvingDue k = true ∨ s.starvedDue k = true) ↔
      st.state = .playing ∧ st.endAccepted = false ∧ (starving ∨ starved))) ∧
  (∀ (k : StationId) (id : Half) (n : Incoming) (s : State),
    let accepted := (s.mapStation k (Station.accept s.windows id n)).countUp k n.kind.acceptedCount 1
    s.acceptRecord k id n =
      ((accepted.openAtIntake k (s.station k).intake.nextSeq).clearStarvation k).evalStarvation k) ∧
  (∀ (w : Windows) (id : Half) (n : Incoming) (st : Station), n.kind = .endMark →
    (st.accept w id n).endAccepted = true ∧ (st.accept w id n).starving = false ∧ (st.accept w id n).starved = false)

/-- R48, R49, R50, R52: what the acceptance of a record of each kind does to the station record before any window opens:
the new entry stands QUEUED at the back of the queue with the record's tick, frame and body, the intake record is
brought up to date (a marker at a greater tick empties the lane set and the chord count, a MINE then adds its lane), and
with a tick's second and later TAPs and HOLDs every one of them is given the chord group: its count and the lanes of
all. The entry's serial is the model's own (log 24). R49, R53, R99, R105: what is due at once for an entry accepted
while the station is PLAYING and the song RUNNING: its window opens, with its chord's, a MINE's without the standing
test, or the marker is taken. -/
def Obligations.AcceptedRecordEntersTheQueue : Prop :=
  (∀ (w : Windows) (id : Half) (n : Incoming) (st : Station) (c l : LaneId),
    ((n.kind = .tap ∧ n.body = .tap c l) ∨ (n.kind = .hold ∧ ∃ tick f, n.body = .hold c l tick f)) →
    let a := st.accept w id n
    let same : Prop := st.intake.lastTick = some n.tick
    a.intake.lastTick = some n.tick ∧ a.intake.lastFrame = some n.frame ∧ a.intake.lastKind = some n.kind ∧
      a.intake.lastClose = some (n.frame + Int.ofNat w.w4) ∧ a.intake.sealedTick = st.intake.sealedTick ∧
      (same → a.intake.chordCount = st.intake.chordCount + 1 ∧
        a.intake.lastLanes = (st.intake.lastLanes ||| (1#9 <<< l.val))) ∧
      (¬ same → a.intake.chordCount = 1 ∧ a.intake.lastLanes = 1#9 <<< l.val) ∧
      (let entry : Entry := { seq := st.intake.nextSeq, noteId := id, tick := n.tick, frame := n.frame, body := n.body,
                              chord := none, state := .queued }
       let all := st.queue ++ [entry]
       (a.intake.chordCount < 2 → a.queue = all) ∧
       (2 ≤ a.intake.chordCount → ∃ lanes : LaneSet,
        (∀ m : LaneId, lanes.getLsbD m.val = true ↔
          ∃ x ∈ all, x.isStep = true ∧ x.tick = n.tick ∧ x.lane = some m) ∧
        a.queue = all.map fun x =>
          if x.isStep = true ∧ x.tick = n.tick then
            { x with chord := some { count := a.intake.chordCount, lanes := lanes } }
          else x)) ∧
      (∀ tick f, n.body = .hold c l tick f → a.intake.tails = st.intake.tails.set l (some tick)) ∧
      (n.body = .tap c l → a.intake.tails = st.intake.tails) ∧ a.intake.nextSeq = st.intake.nextSeq + 1 ∧
      a.state = st.state ∧ a.context = st.context ∧ a.stack = st.stack ∧ a.counts = st.counts ∧
      a.endAccepted = st.endAccepted ∧ a.holds = st.holds ∧ a.heldCloses = st.heldCloses) ∧
  (∀ (w : Windows) (id : Half) (n : Incoming) (st : Station) (c l : LaneId) (channel : ChannelId),
    ((n.kind = .mine ∧ n.body = .mine c l) ∨ (n.kind = .cueMark ∧ n.body = .cueMark channel) ∨
      (n.kind = .endMark ∧ n.body = .endMark)) →
    let a := st.accept w id n
    let same : Prop := st.intake.lastTick = some n.tick
    let lanes := if same then st.intake.lastLanes else 0
    let entry : Entry := { seq := st.intake.nextSeq, noteId := id, tick := n.tick, frame := n.frame, body := n.body,
                           chord := none, state := .queued }
    let ends := decide (n.kind = .endMark)
    a = { st with
      intake := { st.intake with
        lastTick := some n.tick, lastFrame := some n.frame, lastKind := some n.kind,
        lastClose := some (if n.kind = .mine then n.frame + Int.ofNat w.wm else n.frame),
        lastLanes := if n.kind = .mine then lanes ||| (1#9 <<< l.val) else lanes,
        chordCount := if same then st.intake.chordCount else 0,
        nextSeq := st.intake.nextSeq + 1 },
      queue := st.queue ++ [entry], endAccepted := st.endAccepted || ends, starving := st.starving && !ends,
      starved := st.starved && !ends }) ∧
  (∀ (k : StationId) (seq : Nat) (e : Entry) (s : State),
    let now := s.clock.songTime.toInt
    let gone := fun st : Station => { st with queue := st.queue.filter fun x => !([seq].contains x.seq) }
    (((s.station k).state ≠ .playing ∨ s.song.state ≠ .running ∨ (s.station k).entry? seq = none) →
      s.openAtIntake k seq = s) ∧
    ((s.station k).state = .playing → s.song.state = .running → (s.station k).entry? seq = some e →
      (e.isStep = true →
        (now < e.frame - Int.ofNat s.windows.w4 → s.openAtIntake k seq = s) ∧
        (e.frame - Int.ofNat s.windows.w4 ≤ now →
          s.openAtIntake k seq = s.mapStation k (Station.openSteps e))) ∧
      (e.isMine = true →
        (now < e.frame - Int.ofNat s.windows.wm → s.openAtIntake k seq = s) ∧
        (e.frame - Int.ofNat s.windows.wm ≤ now →
          s.openAtIntake k seq =
            s.mapStation k (Station.mapEntries [seq] fun x => { x with state := .opened }))) ∧
      (∀ channel, e.body = .cueMark channel →
        (now < e.frame → s.openAtIntake k seq = s) ∧
        (e.frame = now →
          s.openAtIntake k seq = ((s.mapStation k gone).raiseNow (.chartMark channel)).checkCleared k)) ∧
      (e.body = .endMark →
        (now < e.frame → s.openAtIntake k seq = s) ∧
        (e.frame ≤ now →
          s.openAtIntake k seq =
            (s.mapStation k fun st => { gone st with endPassed := true }).checkCleared k))))

/-- R65: WINDOWS_SET; a station's last close frame is recomputed from its last accepted frame and kind. R112:
LADDER_SET; the live rungs are recomputed. R117: SCORING_SET, and the clamping of every live and saved life to the new
life max. -/
def Obligations.SharedTablesSet : Prop :=
  (∀ s : State, s.ready →
    (∀ r : WindowsRec,
      (s.songActive → exec (.windowsSet r) s = .next (s.answered (.windowsSet r) .state [])) ∧
      (¬ s.songActive →
        ((r.w1.toNat < 1 ∨ r.w2.toNat ≤ r.w1.toNat ∨ r.w3.toNat ≤ r.w2.toNat ∨ r.w4.toNat ≤ r.w3.toNat ∨
            r.wm.toNat < 1 ∨ r.lg.toNat < 1 ∨ 16777216 < r.lg.toNat) →
          exec (.windowsSet r) s = .next (s.answered (.windowsSet r) .badValue [])) ∧
        (1 ≤ r.w1.toNat → r.w1.toNat < r.w2.toNat → r.w2.toNat < r.w3.toNat → r.w3.toNat < r.w4.toNat →
          1 ≤ r.wm.toNat → 1 ≤ r.lg.toNat → r.lg.toNat ≤ 16777216 →
          exec (.windowsSet r) s =
            .next (({ s with
              windows :=
                { w1 := r.w1.toNat, w2 := r.w2.toNat, w3 := r.w3.toNat, w4 := r.w4.toNat, wm := r.wm.toNat,
                  lg := r.lg.toNat },
              stations := s.stations.map fun st =>
                { st with intake := { st.intake with
                  lastClose :=
                    match st.intake.lastFrame, st.intake.lastKind with
                    | some f, some .tap => some (f + Int.ofNat r.w4.toNat)
                    | some f, some .hold => some (f + Int.ofNat r.w4.toNat)
                    | some f, some .mine => some (f + Int.ofNat r.wm.toNat)
                    | some f, some .cueMark => some f
                    | some f, some .endMark => some f
                    | _, _ => st.intake.lastClose } } } : State).answered (.windowsSet r) .ok [])))) ∧
    (∀ rungs : List RungRec, rungs.length ≤ 47 →
      let ladder : List Rung := rungs.map fun r => { threshold := r.threshold.toNat, multiplier := r.multiplier.toNat }
      let good : Prop := 1 ≤ rungs.length ∧ rungs.length ≤ 8 ∧ (∀ r ∈ rungs.head?, r.threshold = 0) ∧
        (ladder.Pairwise fun a b => a.threshold < b.threshold) ∧ ∀ r ∈ rungs, 16 ≤ r.multiplier.toNat
      (s.songActive → exec (.ladderSet rungs) s = .next (s.answered (.ladderSet rungs) .state [])) ∧
      (¬ s.songActive → ¬ good → exec (.ladderSet rungs) s = .next (s.answered (.ladderSet rungs) .badValue [])) ∧
      (¬ s.songActive → good →
        exec (.ladderSet rungs) s =
          .next (({ s with
            ladder := ladder,
            stations := s.stations.map fun st =>
              { st with context := { st.context with rung := rungFor ladder st.context.combo } } } : State).answered
                (.ladderSet rungs) .ok [])))) ∧
  (∀ (r : ScoringRec) (s : State), s.ready →
    let good : Prop := (∀ kind : ResultKind, -1000 ≤ (r.deltas.get kind).toInt ∧ (r.deltas.get kind).toInt ≤ 1000) ∧
      1 ≤ r.lifeMax.toNat ∧ r.lifeMax.toNat ≤ 1000 ∧ 1 ≤ r.lifeStart.toNat ∧ r.lifeStart.toNat ≤ r.lifeMax.toNat
    (s.songActive → exec (.scoringSet r) s = .next (s.answered (.scoringSet r) .state [])) ∧
    (¬ s.songActive → ¬ good → exec (.scoringSet r) s = .next (s.answered (.scoringSet r) .badValue [])) ∧
    (¬ s.songActive → good →
      ∃ x : Scoring,
        exec (.scoringSet r) s =
          .next (({ s with
            scoring := x,
            stations := s.stations.map fun st =>
              { st with
                context := { st.context with life := min r.lifeMax.toNat st.context.life },
                stack := st.stack.map fun c => { c with life := min r.lifeMax.toNat c.life } } } : State).answered
                  (.scoringSet r) .ok []) ∧
        x.lifeMax = r.lifeMax.toNat ∧ x.lifeStart = r.lifeStart.toNat ∧
        ∀ kind : ResultKind, x.weights.get kind = (r.weights.get kind).toInt ∧
          x.deltas.get kind = (r.deltas.get kind).toInt))

/-- R62, R121, R133, R148, R169: the requests that read. Each is answered with the state as it stands and changes nothing
but the overrun flags that a CHANNELS read has reported. -/
def Obligations.RequestsThatRead : Prop :=
  ∀ (b : Byte) (s : State), s.ready →
    exec .songStatus s = .next (s.answered .songStatus .ok s.songStatusBytes) ∧
    (3 < b.toNat →
      exec (.stationStatus b) s = .next (s.answered (.stationStatus b) .badValue []) ∧
      exec (.tallyRead b) s = .next (s.answered (.tallyRead b) .badValue []) ∧
      exec (.checkpointRead b) s = .next (s.answered (.checkpointRead b) .badValue [])) ∧
    (∀ k : StationId, b.toNat = k.val →
      exec (.stationStatus b) s = .next (s.answered (.stationStatus b) .ok (s.stationStatusBytes k)) ∧
      exec (.tallyRead b) s =
        .next (s.answered (.tallyRead b) .ok (BitVec.ofNat 8 k.val :: (s.station k).context.bytes)) ∧
      ((s.station k).stack = [] →
        exec (.checkpointRead b) s = .next (s.answered (.checkpointRead b) .stackEmpty [])) ∧
      (∀ c rest, (s.station k).stack = c :: rest →
        exec (.checkpointRead b) s =
          .next (s.answered (.checkpointRead b) .ok (BitVec.ofNat 8 (rest.length + 1) :: c.bytes)))) ∧
    (1 < b.toNat → exec (.cueStatus b) s = .next (s.answered (.cueStatus b) .badValue [])) ∧
    (b = 1#8 → exec (.cueStatus b) s = .next (s.answered (.cueStatus b) .ok s.cueLinesBytes)) ∧
    (b = 0#8 →
      exec (.cueStatus b) s =
        .next ((s.mapCue fun e => { e with channels := e.channels.map fun ch => { ch with overrun := false } }).answered
          (.cueStatus b) .ok s.cueChannelsBytes))

/-- The bytes of the replies that read, and of the reports. R34: PANEL_READ gives 15 bytes a lane, then the station's
flags, its devices and the scan period. R148: SONG_STATUS. R62: STATION_STATUS, its common part and its variant by the
state. R121, R133: a context record, 53 bytes. R169: CUE_STATUS gives 14 bytes a channel, or 3 bytes a line. 11.9: a
RESULT report, 27 bytes, a NOTICE with the fields of its kind, station 0xFF where the kind has none, and a LOST report.
11.3: the codes these bytes show. A flag with a byte of its own and no named bit is sent as 1 where it is set (the
model's choice, log 37), and a time in whole milliseconds, of the halt timer or to the expiry of a running step, is
rounded down (the model's choice, DEDUCED, log 14). -/
def Obligations.FieldsOfTheReadReplies : Prop :=
  let n1 := fun n : Nat => [BitVec.ofNat 8 n]
  let n2 := fun n : Nat => be16 (BitVec.ofNat 16 n)
  let n4 := fun n : Nat => be32 (BitVec.ofNat 32 n)
  let flag := fun (b : Bool) (bit : Nat) => if b then 2 ^ bit else 0
  (∀ (s : State) (k : StationId),
    let g := s.scanner.groups[k]
    let device := fun d : DeviceId =>
      n1 d.val ++ n1 (s.scanner.devices[d]).presence.code ++ n1 (s.scanner.devices[d]).unanswered ++
        n1 (s.scanner.devices[d]).answered
    (s.panelBytes k).length = 149 ∧
    (∀ l : LaneId, ((s.panelBytes k).drop (15 * l.val)).take 15 =
      (let c := s.scanner.channels[panelOf k l]
       n1 c.contact.code ++ n2 c.reading ++ n2 c.level ++ n2 c.baseline ++ n2 c.p ++ n2 c.q ++ n1 c.dp ++ n1 c.dr ++
         n1 c.dwell ++ n1 c.stuckCount)) ∧
    (s.panelBytes k).drop 135 =
      n1 (flag g.uncalibrated 0 + flag g.job.isSome 1) ++ n1 (g.job.elim 0 CalJob.rounds) ++
        be16 (g.lastUnsettled.zeroExtend 16) ++ device (deviceOf (panelOf k 0)) ++ device (deviceOf (panelOf k 8)) ++
        n2 s.scanner.period) ∧
  (∀ s : State, s.songStatusBytes =
    n1 s.song.state.code ++ be32 s.clock.songTime ++ be16 s.clock.measure ++ n1 s.song.armed.toNat ++
      n1 (flag s.song.abortSet.now 0 + flag s.song.abortSet.atMeasure 1 + flag s.song.abortSet.onFail 2 +
        flag s.song.abortSet.atMeasureN 3) ++ be16 s.song.abortMeasure ++ n1 s.song.cause.code ++
      n1 s.clock.watch.code ++ n2 (s.song.halt.ms s.refTime) ++ be32 (BitVec.ofInt 32 s.song.startFrame)) ∧
  (∀ (s : State) (k : StationId),
    let st := s.station k
    let variant := (s.stationStatusBytes k).drop 3
    (s.stationStatusBytes k).take 3 =
      n1 k.val ++ n1 st.state.code ++
        n1 (flag (decide (s.song.state ≠ .stopped ∧ s.song.state ≠ .finished) && s.song.armed.getLsbD k.val) 0 +
          flag st.endAccepted 1 + flag st.endPassed 2 + flag st.starving 3 + flag st.starved 4 + flag st.pushPending 5 +
          flag st.noFail 6 + flag (s.scanner.groups[k]).uncalibrated 7) ∧
    (st.state = .vacant →
      variant = BitVec.ofNat 8 st.stack.length :: allLanes.map fun l => BitVec.ofNat 8 (s.contactOf k l).code) ∧
    (st.state = .loaded →
      variant = n1 st.queue.length ++ n1 (flag st.intake.lastTick.isSome 0) ++ n4 (st.intake.lastTick.getD 0) ++
        n1 st.stack.length ++ n1 st.laneMap.code ++ be16 (st.laneMask.zeroExtend 16)) ∧
    (st.state = .playing →
      variant = be32 s.clock.songTime ++ n1 st.queue.length ++
        n1 (st.queue.countP fun e => decide (e.state = .opened) || e.isJudged) ++
        n1 (st.queue.countP fun e => decide (e.state = .holding)) ++ n4 st.context.combo ++ n2 st.context.life ++
        n4 st.context.displayed ++ n1 st.context.rung ++ n1 (flag st.context.ext 0 + flag st.context.ovf 1)) ∧
    ((st.state = .cleared ∨ st.state = .failed ∨ st.state = .aborted) →
      variant.length = 71 ∧ variant.take 60 = st.counts.toList.flatMap be32 ∧
      variant.drop 60 = n4 st.context.displayed ++ n4 st.context.maxCombo ++ n2 st.context.life ++
        n1 (flag st.context.ovf 0))) ∧
  (∀ c : ScoreContext, c.bytes.length = 53 ∧ c.bytes =
    be40 (BitVec.ofInt 40 c.accumulator) ++ n1 (flag c.ovf 0 + flag c.ext 1 + flag c.tally.wouldHaveFailed 2) ++
      n4 c.combo ++ n4 c.maxCombo ++ n1 c.rung ++ n2 c.life ++
      (([.exact, .close, .fair, .rough, .miss, .holdOk, .holdLost, .mineHit] : List ResultKind).flatMap fun kind =>
        n4 (c.tally.counts.get kind)) ++ n4 c.tally.strays) ∧
  (∀ s : State, s.cueChannelsBytes.length = 112 ∧ s.cueLinesBytes.length = 144 ∧
    (∀ c : ChannelId, (s.cueChannelsBytes.drop (14 * c.val)).take 14 =
      (let ch := s.cue.channels[c]
       n1 ch.state.code ++ n1 ch.config.source.code ++ n1 ch.config.mode.code ++ n1 ch.config.endAction.code ++
         n1 ch.pointer ++ n1 ((ch.config.first.val + ch.pointer) % 256) ++ n1 ch.waiting.length ++
         n1 (flag ch.overrun 0) ++ be16 ch.serial ++ n1 (ch.lastLine.elim 255 Fin.val) ++
         n1 (ch.running.elim 255 fun r => r.line.val) ++
         n2 (ch.running.elim 0 fun r => (r.expiry - s.refTime) / 16000))) ∧
    (∀ n : LineId, (s.cueLinesBytes.drop (3 * n.val)).take 3 =
      [(s.cue.lines[n]).base, (s.cue.lines[n]).current,
        BitVec.ofNat 8 ((s.cue.lines[n]).owner.elim 255 fun o => o.channel.val)])) ∧
  (∀ r : RunningStep,
    ([.up, .pressing, .down, .releasing, .stuck, .fault] : List Contact).map Contact.code = [0, 1, 2, 3, 4, 5] ∧
    ([.vacant, .loaded, .playing, .cleared, .failed, .aborted] : List StationState).map StationState.code =
      [0, 1, 2, 3, 4, 5] ∧
    ([.stopped, .armed, .running, .halted, .finished] : List SongState).map SongState.code = [0, 1, 2, 3, 4] ∧
    ([.none, .complete, .aborted, .clock] : List FinishCause).map FinishCause.code = [0, 1, 2, 3] ∧
    ([.off, .armed, .stepping r, .done] : List ChannelState).map ChannelState.code = [0, 1, 2, 3] ∧
    ([.absent, .present] : List Watch).map Watch.code = [0, 1] ∧
    ([.absent, .present] : List Presence).map Presence.code = [0, 1] ∧
    ([.identity, .rot90, .rot180, .rot270, .mirrorLr, .mirrorFb, .mirrorDiag, .mirrorAnti] : List LaneMap).map
      LaneMap.code = [0, 1, 2, 3, 4, 5, 6, 7] ∧
    ([.single, .run] : List CueMode).map CueMode.code = [0, 1] ∧
    ([.stop, .loop] : List EndAction).map EndAction.code = [0, 1] ∧
    ([.none, .linkFire, .measure, .result, .stationEnd, .songStart, .chartMark, .channelStep, .channelDone] :
      List TriggerSource).map TriggerSource.code = [0, 1, 2, 3, 4, 5, 6, 7, 8] ∧
    ([.exact, .close, .fair, .rough, .miss, .holdOk, .holdLost, .mineHit] : List ResultKind).map ResultKind.code =
      [0, 1, 2, 3, 4, 5, 6, 7] ∧
    ([.high, .low] : List Bound).map Bound.code = [0, 1] ∧
    ([.quiet, .ended .cleared, .ended .failed, .ended .aborted] : List PushPoint).map PushPoint.code = [0, 1, 2, 3]) ∧
  (∀ r : ResultReport, r.bytes.length = 27 ∧ TxFrame.bytes (.report (.result r)) = frameBytes 0xC0#8 r.bytes ∧
    r.bytes = n1 r.station.val ++ n1 r.kind.code ++ be16 r.noteId ++ n1 r.chartLane.val ++
      be16 (r.lanes.zeroExtend 16) ++ n1 (flag r.offset.isSome 0) ++ be32 (BitVec.ofInt 32 (r.offset.getD 0)) ++
      be32 (BitVec.ofInt 32 r.songTime) ++ n4 r.comboAfter ++ n4 r.displayedAfter ++ n2 r.lifeAfter ++
      n1 r.rungAfter) ∧
  (∀ (t time : Int) (a : StationSet) (f : FinishCause) (m : Half) (k : StationId) (i : Int) (n depth : Nat) (l : LaneId)
      (d : DeviceId) (ls : LaneSet) (b : Bool) (p : PushPoint) (o : Bound) (c : ChannelId) (x : EndAction),
    let stamp := be32 (BitVec.ofInt 32 t)
    let sent := fun (y : Notice) (station : Nat) (fields : List Byte) =>
      TxFrame.bytes (.report (.notice time y)) =
        frameBytes 0xC1#8 (n1 y.code ++ n1 station ++ be32 (BitVec.ofInt 32 time) ++ fields)
    sent (.songStarted a) 255 (n1 a.toNat) ∧ sent (.songFinished f m) 255 (n1 f.code ++ be16 m) ∧
    sent .clockLost 255 [] ∧ sent (.clockBack n) 255 (n2 n) ∧ sent (.measure m) 255 (be16 m) ∧
    sent (.starving k i) k.val (be32 (BitVec.ofInt 32 i)) ∧ sent (.starved k) k.val [] ∧
    sent (.cleared k n) k.val (n4 n) ∧ sent (.failed k n) k.val (n4 n) ∧
    sent (.panelStuck k l t) k.val (n1 l.val ++ stamp) ∧
    sent (.panelFault k d ls t) k.val (n1 d.val ++ be16 (ls.zeroExtend 16) ++ stamp) ∧
    sent (.panelOk k d ls t) k.val (n1 d.val ++ be16 (ls.zeroExtend 16) ++ stamp) ∧
    sent (.calibrated k ls b t) k.val (be16 (ls.zeroExtend 16) ++ n1 (flag b 0) ++ stamp) ∧
    sent (.checkpointTaken k depth n p) k.val (n1 depth ++ n4 n ++ n1 p.code) ∧
    sent (.checkpointCancelled k) k.val [] ∧ sent (.scoreOvf k o) k.val (n1 o.code) ∧
    sent (.cueDone c x) 255 (n1 c.val ++ n1 x.code) ∧ sent (.cueOverrun c) 255 (n1 c.val) ∧
    ∀ count : Nat, TxFrame.bytes (.lost count) = frameBytes 0xC2#8 (n2 count)) ∧
  (∀ now ms since : Nat,
    (HaltTimer.stopped ms).ms now = ms ∧ (HaltTimer.running since).ms now = min 500 ((now - since) / 16000))

/-! ### The judgement engine (chapters 04 and 05) -/

/-- R64, R81: the grade of a distance, and the worse of two grades. R72 to R74: a PRESS on a lane with no hold: the
earliest eligible entry is judged; where there is none the press is a stray, which counts and does nothing else. R67,
R91: a contact event is taken only of a PLAYING station in a RUNNING or HALTED song; in RUNNING a PRESS, a RELEASE of
every cause and a WITHDRAWN are taken each in its way, and a pending push is tested. R72, R91: on a lane with a hold the
PRESS and the RELEASE go to that hold; a RELEASE on a lane with none changes nothing. -/
def Obligations.ContactEventsAndThePressThatJudges : Prop :=
  (∀ (w : Windows) (d : Nat) (a b : Grade), w.w1 < w.w2 → w.w2 < w.w3 →
    (gradeOf w d = .exact ↔ d ≤ w.w1) ∧ (gradeOf w d = .close ↔ w.w1 < d ∧ d ≤ w.w2) ∧
      (gradeOf w d = .fair ↔ w.w2 < d ∧ d ≤ w.w3) ∧ (gradeOf w d = .rough ↔ w.w3 < d) ∧
      (a.worse b = a ∨ a.worse b = b) ∧ a.rank ≤ (a.worse b).rank ∧ b.rank ≤ (a.worse b).rank) ∧
  (∀ (k : StationId) (l : LaneId) (t : Int) (s : State), (s.station k).holdOn l = none →
    (∀ before e after, (s.station k).queue = before ++ e :: after →
      (∀ x ∈ before, (s.station k).eligible s.windows l t x = false) →
      (s.station k).eligible s.windows l t e = true → s.pressSteps k l t = s.judge k e t) ∧
    ((∀ x ∈ (s.station k).queue, (s.station k).eligible s.windows l t x = false) →
      s.pressSteps k l t = s.mapStation k fun st => { st with
        context := { st.context with tally := { st.context.tally with
          strays := min 4294967295 (st.context.tally.strays + 1) } } }) ∧
    (∀ e, (s.station k).eligible s.windows l t e = true ↔
      (∃ c, e.body = .tap c l ∨ ∃ tick f, e.body = .hold c l tick f) ∧ (e.state = .queued ∨ e.state = .opened) ∧
        (t - e.frame).natAbs ≤ s.windows.w4 ∧
        (e.isHold = true → ∀ x ∈ (s.station k).queue, x.isHold = true → x.lane = some l → x.isJudged = false))) ∧
  (∀ (c : ContactEvent) (s : State),
    let k := c.station
    (((s.station k).state ≠ .playing ∨ (s.song.state ≠ .running ∧ s.song.state ≠ .halted)) → s.takeContact c = s) ∧
    ((s.station k).state = .playing → s.song.state = .running →
      (c.kind = .press → s.takeContact c = (s.pressed k c.lane c.time).testPush k) ∧
      (∀ cause, c.kind = .release cause → s.takeContact c = (s.released k c.lane c.time).testPush k) ∧
      (c.kind = .withdrawn → s.takeContact c = (s.withdrawn k c.lane).testPush k))) ∧
  (∀ (k : StationId) (l : LaneId) (t : Int) (s : State),
    ((s.station k).holdOn l = none → s.released k l t = s) ∧
    (∀ item, (s.station k).holdOn l = some item →
      s.released k l t = s.releaseHold k item t ∧ s.pressSteps k l t = s.regrab k item))

/-- R70, R73, R83: the lone TAP. A press judges it: its grade and offset are given as its result. Its close, due and not
held, gives MISS. In both the entry leaves as the result is given. R80: a chord member whose fellow is still OPEN is only
marked. -/
def Obligations.LoneTapJudgedOrMissed : Prop :=
  ∀ (k : StationId) (e : Entry) (c l : LaneId) (t : Int) (s : State), e.body = .tap c l → e.state = .opened →
    e ∈ (s.station k).queue → ((s.station k).queue.map Entry.seq).Nodup →
    (∀ kind offset count, e.given kind offset count =
      { kind := kind, noteId := e.noteId, chartLane := c, lanes := 1#9 <<< l.val, offset := offset, count := count,
        countBy := 1 }) ∧
    (e.chord = none →
      s.judge k e t =
        s.giveResult k (e.given (gradeOf s.windows (t - e.frame).natAbs).result (some (t - e.frame))
            (gradeOf s.windows (t - e.frame).natAbs).count)
          (fun st => s.joinHolds k [e] (st.settleHeads [e])) ∧
      (e.frame + Int.ofNat s.windows.w4 ≤ s.clock.songTime.toInt →
        ((s.contactOf k l ≠ .pressing ∨ (s.station k).carriedIn.getLsbD l.val = true) →
          (s.station k).heldCloses = [] →
          s.closeEvent k e = s.giveResult k (e.given .miss none .missNotes) (Station.settleHeads [e])) ∧
        (s.contactOf k l = .pressing → (s.station k).carriedIn.getLsbD l.val = false →
          (s.station k).heldCloses = [] →
          s.closeEvent k e =
            s.mapStation k fun st => { st with heldCloses := [{ seq := e.seq, waits := 1#9 <<< l.val }] })) ∧
      (s.clock.songTime.toInt < e.frame + Int.ofNat s.windows.w4 → s.closeEvent k e = s)) ∧
    (∀ o ∈ (s.station k).queue, e.chord ≠ none → o.isStep = true → o.tick = e.tick → o.seq ≠ e.seq →
      o.state = .opened →
      s.judge k e t =
        s.mapStation k (Station.mapEntries [e.seq] fun x =>
          { x with state := .judged (gradeOf s.windows (t - e.frame).natAbs) (t - e.frame) }))

/-- R73, R81, R90: a press that judges the last OPEN head of a group (a lone TAP or HOLD, or a chord): one result for
all, with the worst grade, the press's offset and the first member's id and chart lane; TAPs leave, HOLDs enter HOLDING
and join the hold list, which keeps at most one item a lane in ascending lane order (R89); that a lane with an item
takes no second is the model's choice (log 42). R70, R71, R82: a close that takes effect gives one MISS, then HOLD_LOST
for each HOLD; while an OPEN member's lane is PRESSING and not carried-in it is held; before its frame a close changes
nothing. R76 to R78: a held close is examined as a PRESS or a WITHDRAWN takes a lane it waits on out of PRESSING, after
what the press itself does; where a HELD deadline also waits on the lane either is first (log 19). That the HOLD_OKs of
several HOLDs of one completed chord come in queue order is the model's choice (DEDUCED, log 18). -/
def Obligations.HeadsChordsAndHeldCloses : Prop :=
  (∀ (k : StationId) (e first : Entry) (rest members : List Entry) (t : Int) (s : State),
    ((s.station k).queue.map Entry.seq).Nodup → e ∈ (s.station k).queue →
    members = ((s.station k).queue.filter fun x =>
      decide (x.seq = e.seq ∨ (e.chord ≠ none ∧ x.isStep = true ∧ x.tick = e.tick))) → members = first :: rest →
    let heads : ResultKind → Option Int → CountKind → Given := fun kind offset count =>
      { kind := kind, noteId := first.noteId, chartLane := first.chartLane, lanes := lanesOf members, offset := offset,
        count := count, countBy := members.length }
    let holds := members.filter Entry.isHold
    (e.state ≠ .queued → (∀ x ∈ members, x.seq ≠ e.seq → x.state ≠ .opened) →
      ∃ grade : Grade,
        (grade = gradeOf s.windows (t - e.frame).natAbs ∨ ∃ x ∈ members, ∃ o, x.state = .judged grade o) ∧
        (gradeOf s.windows (t - e.frame).natAbs).rank ≤ grade.rank ∧
        (∀ x ∈ members, x.seq ≠ e.seq → ∀ g o, x.state = .judged g o → g.rank ≤ grade.rank) ∧
        s.judge k e t =
          holds.foldl (fun u x => u.okIfTailReached k x.seq)
            (s.giveResult k (heads grade.result (some (t - e.frame)) grade.count)
              fun st => s.joinHolds k members (st.settleHeads members))) ∧
    s.missGroup k members first =
      holds.foldl (fun u x => if (u.station k).state = .playing then u.giveHoldLost k x.seq else u)
        (s.giveResult k (heads .miss none .missNotes) (Station.settleHeads members)) ∧
    (e.isStep = true → e.frame + Int.ofNat s.windows.w4 ≤ s.clock.songTime.toInt →
      (((∀ x ∈ members, x.state ≠ .opened) ∨ first.seq ≠ e.seq ∨
          ∃ h ∈ (s.station k).heldCloses, h.seq = e.seq) → s.closeEvent k e = s) ∧
      ((∃ x ∈ members, x.state = .opened) → first = e → (∀ h ∈ (s.station k).heldCloses, h.seq ≠ e.seq) →
        (s.waitingLanes k members = 0 → s.closeEvent k e = s.missGroup k members first) ∧
        (s.waitingLanes k members ≠ 0 →
          s.closeEvent k e = s.mapStation k fun st =>
            { st with heldCloses := insertHeld { seq := e.seq, waits := s.waitingLanes k members } st.heldCloses }))) ∧
    ((s.station k).state = .playing →
      let dropped := s.mapStation k fun st =>
        { st with heldCloses := st.heldCloses.filter fun h => decide (h.seq ≠ e.seq) }
      ((∀ x ∈ members, x.state ≠ .opened) → s.examine k e.seq = dropped) ∧
      ((∃ x ∈ members, x.state = .opened) →
        (s.waitingLanes k members = 0 → s.examine k e.seq = dropped.missGroup k members e) ∧
        (s.waitingLanes k members ≠ 0 →
          s.examine k e.seq = s.mapStation k fun st =>
            { st with heldCloses := st.heldCloses.map fun h =>
                if h.seq = e.seq then { h with waits := s.waitingLanes k members } else h })))) ∧
  (∀ (k : StationId) (members : List Entry) (s : State) (l : LaneId),
    ((lanesOf members).getLsbD l.val = true ↔ ∃ x ∈ members, x.lane = some l) ∧
    ((s.waitingLanes k members).getLsbD l.val = true ↔
      (∃ x ∈ members, x.state = .opened ∧ x.lane = some l) ∧ s.contactOf k l = .pressing ∧
        (s.station k).carriedIn.getLsbD l.val = false)) ∧
  (∀ (k : StationId) (members : List Entry) (s : State) (st : Station), (st.queue.map Entry.seq).Nodup →
    (∀ x ∈ members, x ∈ st.queue) →
    (st.settleHeads members).queue = (st.queue.filterMap fun x =>
      if x ∈ members then if x.isHold = true then some { x with state := .holding } else none else some x) ∧
    (let a := s.joinHolds k members st
     let item := fun (x : Entry) (l : LaneId) => HoldItem.mk l x.seq
       (if s.contactOf k l = .down ∨ s.contactOf k l = .releasing then Deadline.none
        else .pending (s.clock.songTime.toInt + Int.ofNat s.windows.lg))
     (∀ g : HoldItem, g ∈ a.holds ↔
        g ∈ st.holds ∨ ((∀ h ∈ st.holds, h.lane ≠ g.lane) ∧
          ∃ before x after, members = before ++ x :: after ∧ (∃ c tick f, x.body = .hold c g.lane tick f) ∧
            (∀ y ∈ before, ∀ c tick f, y.body ≠ .hold c g.lane tick f) ∧ g = item x g.lane)) ∧
      ((∀ x ∈ members, x.isHold = true → ∀ h ∈ st.holds, x.lane ≠ some h.lane) →
        ((members.filter Entry.isHold).map Entry.lane).Nodup →
        a.holds.length = st.holds.length + (members.filter Entry.isHold).length ∧
          ∀ x ∈ members, ∀ c l tick f, x.body = .hold c l tick f → item x l ∈ a.holds) ∧
      ((st.holds.map fun h => h.lane.val).Pairwise (· ≤ ·) → (a.holds.map fun h => h.lane.val).Pairwise (· ≤ ·)) ∧
      ((st.holds.map fun h => h.lane.val).Pairwise (· < ·) → (a.holds.map fun h => h.lane.val).Pairwise (· < ·)) ∧
      a = { st with holds := a.holds })) ∧
  (∀ (k : StationId) (l : LaneId) (t : Int) (s : State),
    let held := ((s.station k).heldCloses.filter fun h => h.waits.getLsbD l.val).map HeldClose.seq
    let waiting : Prop := ∃ item f, (s.station k).holdOn l = some item ∧ item.deadline = .held f
    let carry := s.mapStation k fun st => { st with carriedIn := st.carriedIn &&& ~~~(1#9 <<< l.val) }
    ((s.station k).carriedIn.getLsbD l.val = true → s.pressed k l t = carry ∧ s.withdrawn k l = carry) ∧
    ((s.station k).carriedIn.getLsbD l.val = false →
      s.pressed k l t = held.foldl (fun u n => u.examine k n) ((s.pressSteps k l t).pressMines k l t) ∧
      ((held = [] ∨ ¬ waiting) →
        s.withdrawn k l = (held.foldl (fun u n => u.examine k n) s).withdrawHold k l) ∧
      (held ≠ [] → waiting → ∃ u : State,
        u = { s with choices := u.choices, choiceCount := u.choiceCount } ∧
        (s.withdrawn k l = (held.foldl (fun u n => u.examine k n) u).withdrawHold k l ∨
          s.withdrawn k l = held.foldl (fun u n => u.examine k n) (u.withdrawHold k l))))) ∧
  (∀ (item : HeldClose) (held : List HeldClose),
    (insertHeld item held).Perm (item :: held) ∧
    ((held.map HeldClose.seq).Pairwise (· ≤ ·) → ((insertHeld item held).map HeldClose.seq).Pairwise (· ≤ ·))) ∧
  (∀ (k : StationId) (e : Entry) (s : State), e.isStep = true →
    s.clock.songTime.toInt < e.frame + Int.ofNat s.windows.w4 → s.closeEvent k e = s)

/-- R83: a result given while PLAYING is applied to the context, counts in the chart counts, and, where it fails the
station, ends it; nothing is given once the station has left PLAYING. R114: a first saturation offers SCORE_OVF before.
R84 to R86: then the RESULT report with its fields, where the report level is RESULTS, and the RESULT trigger, raised at
every level; the report and what the trigger leads to are offered in some order (log 6). -/
def Obligations.ResultIsGivenWhilePlaying : Prop :=
  ∀ (k : StationId) (g : Given) (update : Station → Station) (s : State),
    (∀ st, (update st).state = st.state ∧ (update st).context = st.context ∧ (update st).noFail = st.noFail ∧
      (update st).counts = st.counts ∧ (update st).pushPending = st.pushPending ∧
      (update st).reportLevel = st.reportLevel) →
    ((s.station k).state ≠ .playing → s.giveResult k g update = s) ∧
    ((s.station k).state = .playing →
      let applied := applyResult s.scoring s.ladder (s.station k).noFail g.kind (s.station k).context
      let t := s.giveResult k g update
      (t.station k).context = applied.context ∧ OthersKept k s t ∧ SharedKept s t ∧ t.clock = s.clock ∧
        t.scanner = s.scanner ∧
        (applied.failed = true → (t.station k).state = .failed ∧ (t.station k).queue = [] ∧
          (t.station k).holds = [] ∧ (t.station k).heldCloses = []) ∧
        (applied.failed = false → (t.station k).state = .playing ∨ (t.station k).state = .cleared) ∧
        (((s.station k).counts[g.count.index]).toNat + g.countBy ≤ 4294967295 →
          (g.count ≠ .stepsDrained → g.count ≠ .minesDrained →
            (t.station k).counts[g.count.index] = (s.station k).counts[g.count.index] + BitVec.ofNat 32 g.countBy)) ∧
        (let now := s.clock.songTime.toInt
         let scored := ((s.mapStation k update).countUp k g.count g.countBy).mapStation k fun st =>
          { st with context := applied.context }
         let warned :=
          match applied.overflow with
          | some bound => scored.offer (.notice now (.scoreOvf k bound))
          | none => scored
         let raised := warned.raise (.result k g.kind g.lanes)
         let c := applied.context
         let report := Report.result
          { station := k, kind := g.kind, noteId := g.noteId, chartLane := g.chartLane, lanes := g.lanes,
            offset := g.offset, songTime := now, comboAfter := c.combo, displayedAfter := c.displayed,
            lifeAfter := c.life, rungAfter := c.rung }
         let reports := if (s.station k).reportLevel = .results then [report] else []
         ∃ (offers : List Report) (u : State), offers.Perm (reports ++ raised.2) ∧ raised.2.Sublist offers ∧
          u = { raised.1 with choices := u.choices, choiceCount := u.choiceCount } ∧
          (applied.failed = true → t = (offers.foldl (fun v r => v.offer r) u).endStation k .failed) ∧
          (applied.failed = false → t = (offers.foldl (fun v r => v.offer r) u).checkCleared k)))

/-- R57: a drain: the TAPs and HOLDs whose heads have no final grade, and the MINEs, are counted as drained, and the queue,
the held closes, the hold list and the carried-in lanes are emptied. R58 to R60, R129: a station that enters CLEARED,
FAILED or ABORTED is drained, a pending push is taken with CHECKPOINT_TAKEN, CLEARED or FAILED is offered with the
displayed score, and its STATION_END trigger is raised (R37); an ABORTED station offers no notice of its own and raises
none. The point of a push that a clear takes may be the quiet point (log 21). R58: a PLAYING station with END-passed set
and an empty queue enters CLEARED. R37, R146: the end event goes to song control; the reports of an end are offered at
once, or go among what the event hands on, in some order (log 6). R145: an abort by song control. -/
def Obligations.StationEndsAndWhatTheyHandOn : Prop :=
  (∀ (k : StationId) (e : EndState) (s : State),
    let st := s.station k
    let now := s.clock.songTime.toInt
    let own :=
      match e with
      | .cleared => [Report.notice now (.cleared k st.context.displayed)]
      | .failed => [Report.notice now (.failed k st.context.displayed)]
      | .aborted => []
    let after :=
      match e with
      | .cleared => StationState.cleared
      | .failed => .failed
      | .aborted => .aborted
    let drained :=
      ((s.countUp k .stepsDrained (st.queue.countP fun x => x.isStep && decide (x.state ≠ .holding))).countUp k
        .minesDrained (st.queue.countP Entry.isMine)).mapStation k fun st =>
          { st with state := after, queue := [], heldCloses := [], holds := [], carriedIn := 0 }
    let pushed :=
      if st.pushPending = true then
        drained.mapStation k fun st => { st with stack := st.context :: st.stack, pushPending := false }
      else drained
    ∃ (point : PushPoint) (u : State),
      (point = .ended e ∨ (e = .cleared ∧ point = .quiet ∧ ∀ l, s.contactOf k l ≠ .pressing)) ∧
      u = { pushed with choices := u.choices, choiceCount := u.choiceCount } ∧
      (let taken :=
        if st.pushPending = true then
          [Report.notice now (.checkpointTaken k (st.stack.length + 1) st.context.displayed point)]
        else []
       let raised := u.raise (.stationEnd k)
       (e = .aborted → s.enterEnd k e = (u, own ++ taken)) ∧
       (e ≠ .aborted → s.enterEnd k e = (raised.1, own ++ taken ++ raised.2)))) ∧
  (∀ (k : StationId) (e : EndState) (s : State),
    let x := s.enterEnd k e
    let handed := x.1.mapSong fun g => { g with ends := g.ends ++ [(k, e)] }
    (x.2 = [] → s.endStation k e = handed) ∧
    (x.2 ≠ [] → ∃ u : State, u = { handed with choices := u.choices, choiceCount := u.choiceCount } ∧
      (s.endStation k e = (u.mapLink fun l => { l with held := l.held ++ x.2 }) ∨
        ∃ order : List Report, order.Perm x.2 ∧ s.endStation k e = order.foldl (fun t r => t.offer r) u)) ∧
    ((s.station k).state = .playing → (s.station k).endPassed = true → (s.station k).queue = [] →
      s.checkCleared k = s.endStation k .cleared) ∧
    (((s.station k).state ≠ .playing ∨ (s.station k).endPassed = false ∨ (s.station k).queue ≠ []) →
      s.checkCleared k = s)) ∧
  (∀ (k : StationId) (c : CountKind) (n : Nat) (s : State),
    ((s.station k).counts[c.index]).toNat + n ≤ 4294967295 →
    s.countUp k c n = s.mapStation k fun st =>
      { st with counts := st.counts.set c.index (st.counts[c.index] + BitVec.ofNat 32 n) }) ∧
  (∀ (cause : FinishCause) (s : State),
    let ended := (allStations.filter fun k =>
        s.song.armed.getLsbD k.val && decide ((s.station k).state = .playing)).foldl
      (fun (acc : State × List Report) k =>
        let x := acc.1.enterEnd k .aborted
        (x.1, acc.2 ++ x.2)) (s, [])
    let finished := ended.1.mapSong fun g =>
      { g with state := .finished, cause := cause, abortSet := AbortSet.empty,
               halt := .stopped (s.song.halt.ms s.refTime) }
    ∃ (order : List Report) (u : State),
      order.Perm (ended.2 ++ [.notice s.clock.songTime.toInt (.songFinished cause s.clock.measure)]) ∧
      u = { finished with choices := u.choices, choiceCount := u.choiceCount } ∧
      s.abortSong cause = order.foldl (fun t r => t.offer r) u) ∧
  (∀ (more : List HandOff) (k : StationId) (e : EndState) (r : Report) (s : State),
    s.flushWith more =
      State.takeHandOffs (more ++ (s.song.ends.map fun x => HandOff.ended x.1 x.2) ++ s.link.held.map HandOff.report)
        { s with song := { s.song with ends := [] }, link := { s.link with held := [] } } ∧
    s.flush = s.flushWith [] ∧ s.takeHandOff (.ended k e) = s.takeEnd e ∧ s.takeHandOff (.report r) = s.offer r)

/-- R91, R93, R95: a hold's let-go deadline and tail. A RELEASE starts the deadline; one that has been reached loses the
hold, or is HELD while the lane is PRESSING; a tail reached in time gives HOLD_OK; a deadline not yet reached waits.
R92, R93: a PRESS re-grabs the hold, and HOLD_OK follows at once where the tail was reached while the deadline was HELD;
a WITHDRAWN loses a hold with a HELD deadline. R96: a hold result carries the HOLD's own id and lanes and no offset, and
the entry and its item leave as it is given. -/
def Obligations.HoldDeadlinesAndTails : Prop :=
  ∀ (k : StationId) (item : HoldItem) (e : Entry) (time frame : Int) (s : State), (s.station k).state = .playing →
    (s.station k).holdOn item.lane = some item → (s.station k).entry? item.seq = some e →
    let due := time + Int.ofNat s.windows.lg
    let now := s.clock.songTime.toInt
    (item.deadline = .none → now < due →
      s.releaseHold k item time = s.mapStation k (Station.setDeadline item.lane (.pending due))) ∧
    (item.deadline = .none → due ≤ now → s.contactOf k item.lane = .pressing →
      s.releaseHold k item time =
        (s.mapStation k (Station.setDeadline item.lane (.pending due))).mapStation k
          (Station.setDeadline item.lane (.held due))) ∧
    (item.deadline = .none → due ≤ now → s.contactOf k item.lane ≠ .pressing →
      s.releaseHold k item time =
        (s.mapStation k (Station.setDeadline item.lane (.pending due))).giveHoldLost k item.seq) ∧
    (item.deadline ≠ .none → s.releaseHold k item time = s) ∧
    (item.deadline = .none → e.tailFrame ≤ now → s.holdEvent k item.lane = s.giveHoldOk k item.seq) ∧
    (item.deadline = .none → now < e.tailFrame → s.holdEvent k item.lane = s) ∧
    (item.deadline = .pending frame → e.tailFrame ≤ now → e.tailFrame ≤ frame →
      s.holdEvent k item.lane = s.giveHoldOk k item.seq) ∧
    (item.deadline = .pending frame → (now < e.tailFrame ∨ frame < e.tailFrame) → frame ≤ now →
      s.contactOf k item.lane ≠ .pressing → s.holdEvent k item.lane = s.giveHoldLost k item.seq) ∧
    (item.deadline = .pending frame → (now < e.tailFrame ∨ frame < e.tailFrame) → frame ≤ now →
      s.contactOf k item.lane = .pressing →
      s.holdEvent k item.lane = s.mapStation k (Station.setDeadline item.lane (.held frame))) ∧
    (item.deadline = .held frame → s.holdEvent k item.lane = s) ∧
    (item.deadline = .pending frame → s.regrab k item = s.mapStation k (Station.setDeadline item.lane .none)) ∧
    (item.deadline = .none → s.regrab k item = s) ∧
    (item.deadline = .pending frame → (now < e.tailFrame ∨ frame < e.tailFrame) → now < frame →
      s.holdEvent k item.lane = s) ∧
    (item.deadline = .held frame → e.tailFrame ≤ now →
      s.regrab k item = (s.mapStation k (Station.setDeadline item.lane .none)).giveHoldOk k item.seq) ∧
    (item.deadline = .held frame → now < e.tailFrame →
      s.regrab k item = s.mapStation k (Station.setDeadline item.lane .none)) ∧
    (item.deadline = .held frame → s.withdrawHold k item.lane = s.giveHoldLost k item.seq) ∧
    ((item.deadline = .none ∨ item.deadline = .pending frame) → s.withdrawHold k item.lane = s) ∧
    (∀ c l tick, e.body = .hold c l tick e.tailFrame →
      let given : ResultKind → CountKind → Given := fun kind count =>
        { kind := kind, noteId := e.noteId, chartLane := c, lanes := 1#9 <<< l.val, offset := none, count := count,
          countBy := 1 }
      let gone := fun st : Station =>
        { st with queue := st.queue.filter fun x => decide (x.seq ≠ item.seq),
                  holds := st.holds.filter fun h => decide (h.seq ≠ item.seq) }
      s.giveHoldOk k item.seq = s.giveResult k (given .holdOk .holdOk) gone ∧
      s.giveHoldLost k item.seq = s.giveResult k (given .holdLost .holdLost) gone)

/-- R99 to R105: mines and markers. A mine opens at its open frame and is hit by standing, or by the earliest eligible
press, or is avoided at its close with no result; one whose window has closed as it opens, at the start edge, is opened
without the standing test (R102). A mine's open and close change nothing before their frames, or where the mine is not
QUEUED or not OPEN. An END_MARK due sets END-passed, and a CUE_MARK due raises its trigger; a CUE_MARK whose frame lies
before song time, at the start edge, leaves the queue with no trigger (R105). The marker event changes nothing before
the marker's frame, nor for a TAP, a HOLD or a mine. -/
def Obligations.MinesAndMarkers : Prop :=
  ∀ (k : StationId) (e : Entry) (c l : LaneId) (s : State),
    let now := s.clock.songTime.toInt
    let gone := fun st : Station => { st with queue := st.queue.filter fun x => !([e.seq].contains x.seq) }
    (e.body = .mine c l → e.state = .queued → e.frame - Int.ofNat s.windows.wm ≤ now →
      ((s.contactOf k l = .down ∨ s.contactOf k l = .releasing) → now < e.frame + Int.ofNat s.windows.wm →
        s.openEvent k e = s.giveResult k (e.given .mineHit none .minesHit) (Station.without [e.seq])) ∧
      (((s.contactOf k l ≠ .down ∧ s.contactOf k l ≠ .releasing) ∨ e.frame + Int.ofNat s.windows.wm ≤ now) →
        s.openEvent k e = s.mapStation k (Station.mapEntries [e.seq] fun x => { x with state := .opened }))) ∧
    (e.body = .mine c l → e.state = .opened → e.frame + Int.ofNat s.windows.wm ≤ now →
      s.closeEvent k e = ((s.mapStation k gone).countUp k .minesAvoided 1).checkCleared k) ∧
    (∀ t : Int, (s.station k).state = .playing →
      ∀ before m after, (s.station k).queue = before ++ m :: after →
      (∀ x ∈ before, mineEligible s.windows l t x = false) → m.body = .mine c l →
      (m.state = .queued ∨ m.state = .opened) → (t - m.frame).natAbs ≤ s.windows.wm →
      s.pressMines k l t = s.giveResult k (m.given .mineHit none .minesHit) (Station.without [m.seq])) ∧
    (e.body = .endMark → e.frame ≤ now →
      s.markerEvent k e = (s.mapStation k fun st => { gone st with endPassed := true }).checkCleared k) ∧
    (∀ channel, e.body = .cueMark channel → e.frame = now →
      s.markerEvent k e = ((s.mapStation k gone).raiseNow (.chartMark channel)).checkCleared k) ∧
    (∀ channel, e.body = .cueMark channel → e.frame < now → s.markerEvent k e = (s.mapStation k gone).checkCleared k) ∧
    ((now < e.frame ∨ (e.body ≠ .endMark ∧ ∀ channel, e.body ≠ .cueMark channel)) → s.markerEvent k e = s) ∧
    (e.body = .mine c l → (now < e.frame - Int.ofNat s.windows.wm ∨ e.state ≠ .queued) → s.openEvent k e = s) ∧
    (e.body = .mine c l → (now < e.frame + Int.ofNat s.windows.wm ∨ e.state ≠ .opened) → s.closeEvent k e = s) ∧
    (∀ t : Int, ((s.station k).state ≠ .playing ∨ ∀ x ∈ (s.station k).queue, mineEligible s.windows l t x = false) →
      s.pressMines k l t = s) ∧
    (∀ t : Int, mineEligible s.windows l t e = true ↔
      (∃ c, e.body = .mine c l) ∧ (e.state = .queued ∨ e.state = .opened) ∧ (t - e.frame).natAbs ≤ s.windows.wm) ∧
    (e.body = .mine c l →
      e.given .mineHit none .minesHit =
        { kind := .mineHit, noteId := e.noteId, chartLane := c, lanes := 1#9 <<< l.val, offset := none,
          count := .minesHit, countBy := 1 })

end

/-! ### Score, combo and life (chapter 06) -/

section
open Sys2Proof Sys2Proof.Machine

/-- R109, R110, R113, R118 to R120: one result applied to a score context. R111: the rung in force is the highest-
numbered rung whose threshold is at or below the combo; its multiplier is read. R115, R116: EXT, and the displayed
score. -/
def Obligations.ResultAppliedAndTheScoreItShows : Prop :=
  (∀ (scoring : Scoring) (ladder : List Rung) (noFail : Bool) (kind : ResultKind) (c : ScoreContext),
    let a := applyResult scoring ladder noFail kind c
    let combo := a.context.combo
    let sum := c.accumulator + scoring.weights.get kind * Int.ofNat (multiplierAt ladder (rungFor ladder combo))
    let life := Int.ofNat c.life + scoring.deltas.get kind
    ((kind = .exact ∨ kind = .close ∨ kind = .fair) → combo = min 4294967295 (c.combo + 1)) ∧
    ((kind = .rough ∨ kind = .miss ∨ kind = .holdLost) → combo = 0) ∧
    ((kind = .holdOk ∨ kind = .mineHit) → combo = c.combo) ∧
    a.context.maxCombo = max c.maxCombo combo ∧ a.context.rung = rungFor ladder combo ∧
    (-34359738368 ≤ sum → sum ≤ 34359738367 →
      a.context.accumulator = sum ∧ a.context.ovf = c.ovf ∧ a.overflow = none) ∧
    (34359738367 < sum → a.context.accumulator = 34359738367 ∧ a.context.ovf = true ∧
      a.overflow = if c.ovf then none else some .high) ∧
    (sum < -34359738368 → a.context.accumulator = -34359738368 ∧ a.context.ovf = true ∧
      a.overflow = if c.ovf then none else some .low) ∧
    (life < 0 → a.context.life = 0) ∧ (0 ≤ life → a.context.life = min scoring.lifeMax life.toNat) ∧
    a.context.tally.counts.get kind = min 4294967295 (c.tally.counts.get kind + 1) ∧
    (∀ other, other ≠ kind → a.context.tally.counts.get other = c.tally.counts.get other) ∧
    a.context.tally.strays = c.tally.strays ∧
    (a.context.tally.wouldHaveFailed = true ↔
      c.tally.wouldHaveFailed = true ∨ (a.context.life = 0 ∧ noFail = true)) ∧
    (a.failed = true ↔ a.context.life = 0 ∧ noFail = false)) ∧
  (∀ (ladder : List Rung) (combo : Nat) (c : ScoreContext),
    (∀ i r, ladder[i]? = some r → r.threshold ≤ combo →
      (∀ j x, i < j → ladder[j]? = some x → combo < x.threshold) →
      rungFor ladder combo = i ∧ multiplierAt ladder (rungFor ladder combo) = r.multiplier) ∧
    (c.ext = true ↔ (c.accumulator < -2147483648 ∨ 2147483647 < c.accumulator)) ∧
    (c.accumulator < 0 → c.displayed = 0) ∧
    (0 ≤ c.accumulator → (c.displayed : Int) = c.accumulator / 16))

/-! ### Checkpoints (chapter 07) -/

/-- R126, R127: CHECKPOINT_PUSH: its refusals in order; a push taken at once, and a push left pending. R128, R134: the
test at the end of an engine event: a pending push of a PLAYING station at a quiet point is taken and its notice
offered; else nothing. -/
def Obligations.CheckpointPushAtOnceOrPending : Prop :=
  (∀ (b : Byte) (s : State), s.ready →
    (3 < b.toNat → exec (.checkpointPush b) s = .next (s.answered (.checkpointPush b) .badValue [])) ∧
    (∀ k : StationId, b.toNat = k.val →
      let st := s.station k
      let quiet : Prop := (∀ e ∈ st.queue, e.state ≠ .holding) ∧
        (∀ x ∈ st.queue, ∀ y ∈ st.queue, x.sameChord y = true → x.isJudged = true → y.state ≠ .opened) ∧
        ∀ l : LaneId, s.contactOf k l ≠ .pressing
      (st.state = .vacant → exec (.checkpointPush b) s = .next (s.answered (.checkpointPush b) .state [])) ∧
      (st.state ≠ .vacant → st.pushPending = true →
        exec (.checkpointPush b) s = .next (s.answered (.checkpointPush b) .busy [])) ∧
      (st.state ≠ .vacant → st.pushPending = false → 4 ≤ st.stack.length →
        exec (.checkpointPush b) s = .next (s.answered (.checkpointPush b) .stackFull [])) ∧
      (st.state ≠ .vacant → st.pushPending = false → st.stack.length < 4 →
        ((st.state ≠ .playing ∨ quiet) →
          exec (.checkpointPush b) s =
            .next ((s.mapStation k fun st => { st with stack := st.context :: st.stack }).answered (.checkpointPush b)
              .ok [BitVec.ofNat 8 (st.stack.length + 1)])) ∧
        (st.state = .playing → ¬ quiet →
          exec (.checkpointPush b) s =
            .next ((s.mapStation k fun st => { st with pushPending := true }).answered (.checkpointPush b)
              .pending [BitVec.ofNat 8 st.stack.length]))))) ∧
  (∀ (k : StationId) (s : State),
    ((s.station k).state = .playing → s.quiet k = true → (s.station k).pushPending = true →
      s.testPush k =
        (s.mapStation k fun st => { st with stack := st.context :: st.stack, pushPending := false }).offer
          (.notice s.clock.songTime.toInt
            (.checkpointTaken k ((s.station k).stack.length + 1) (s.station k).context.displayed .quiet))) ∧
    (((s.station k).state ≠ .playing ∨ s.quiet k = false ∨ (s.station k).pushPending = false) → s.testPush k = s)) ∧
  (∀ (k : StationId) (s : State),
    (s.quiet k = true ↔ (∀ e ∈ (s.station k).queue, e.state ≠ .holding) ∧
      (∀ x ∈ (s.station k).queue, ∀ y ∈ (s.station k).queue, x.chord ≠ none → y.isStep = true → x.tick = y.tick →
        x.isJudged = true → y.state ≠ .opened) ∧ ∀ l : LaneId, s.contactOf k l ≠ .pressing))

/-- R131: CHECKPOINT_POP restores the top record into the live context. -/
def Obligations.CheckpointPop : Prop :=
  ∀ (b : Byte) (s : State), s.ready →
    (3 < b.toNat → exec (.checkpointPop b) s = .next (s.answered (.checkpointPop b) .badValue [])) ∧
    (∀ k : StationId, b.toNat = k.val →
      let st := s.station k
      (st.pushPending = true → exec (.checkpointPop b) s = .next (s.answered (.checkpointPop b) .busy [])) ∧
      (st.pushPending = false → (st.state = .playing ∨ st.state = .vacant) →
        exec (.checkpointPop b) s = .next (s.answered (.checkpointPop b) .state [])) ∧
      (st.pushPending = false → st.state ≠ .playing → st.state ≠ .vacant →
        (st.stack = [] → exec (.checkpointPop b) s = .next (s.answered (.checkpointPop b) .stackEmpty [])) ∧
        (∀ c rest, st.stack = c :: rest →
          exec (.checkpointPop b) s =
            .next ((s.mapStation k fun st => { st with context := c, stack := rest }).answered (.checkpointPop b) .ok
              (BitVec.ofNat 8 rest.length :: be32 (BitVec.ofNat 32 c.displayed))))))

/-- R132: CHECKPOINT_DROP discards the top record, in every station state and song state; the live context is unchanged. -/
def Obligations.CheckpointDrop : Prop :=
  ∀ (b : Byte) (s : State), s.ready →
    (3 < b.toNat → exec (.checkpointDrop b) s = .next (s.answered (.checkpointDrop b) .badValue [])) ∧
    (∀ k : StationId, b.toNat = k.val →
      let st := s.station k
      (st.pushPending = true → exec (.checkpointDrop b) s = .next (s.answered (.checkpointDrop b) .busy [])) ∧
      (st.pushPending = false → st.stack = [] →
        exec (.checkpointDrop b) s = .next (s.answered (.checkpointDrop b) .stackEmpty [])) ∧
      (∀ c rest, st.pushPending = false → st.stack = c :: rest →
        exec (.checkpointDrop b) s =
          .next ((s.mapStation k fun st => { st with stack := rest }).answered (.checkpointDrop b) .ok
            [BitVec.ofNat 8 rest.length])))

/-! ### Song control (chapter 08) -/

/-- R137: SONG_ARM, its checks in order, and what it sets. R138: a start request sets the start latch while the song is
ARMED; in any other state the START edge is ignored and SONG_GO is refused with STATE. -/
def Obligations.SongArmAndStartRequests : Prop :=
  (∀ (mask : Byte) (start : Word) (s : State), s.ready →
    let i := Instr.songArm mask start
    (15 < mask.toNat → exec i s = .next (s.answered i .badValue [])) ∧
    (mask.toNat ≤ 15 →
      ((s.songActive ∨ mask = 0 ∨ ∃ k : StationId, mask.getLsbD k.val = true ∧ (s.station k).state ≠ .loaded) →
        exec i s = .next (s.answered i .state [])) ∧
      (¬ s.songActive → mask ≠ 0 → (∀ k : StationId, mask.getLsbD k.val = true → (s.station k).state = .loaded) →
        exec i s =
          .next ((s.mapSong fun g =>
            { g with state := .armed, armed := mask.extractLsb' 0 4, startFrame := start.toInt, latch := false,
                     abortSet := AbortSet.empty, cause := .none, halt := .stopped 0 }).answered i .ok [])))) ∧
  (∀ s : State,
    (s.song.state = .armed →
      exec .startFallingEdge s = .next (s.mapSong fun g => { g with latch := true })) ∧
    (s.song.state ≠ .armed → exec .startFallingEdge s = .next s) ∧
    (s.ready → s.song.state = .armed →
      exec .songGo s = .next ((s.mapSong fun g => { g with latch := true }).answered .songGo .ok [])) ∧
    (s.ready → s.song.state ≠ .armed → exec .songGo s = .next (s.answered .songGo .state [])))

/-- R144, R145: SONG_ABORT in each song state. NOW in a song under way aborts it: the armed PLAYING stations enter
ABORTED, the others stay as they are. R144, R146: what song control does at a measure pulse and at a station end
event. -/
def Obligations.SongAbortPulsesAndEndEvents : Prop :=
  (∀ (c : Byte) (n : Half) (s : State), s.ready →
    let i := Instr.songAbort c n
    let set : AbortSet := { now := c.getLsbD 0, atMeasure := c.getLsbD 1, onFail := c.getLsbD 2, atMeasureN := c.getLsbD 3 }
    let now := c.getLsbD 0
    (15 < c.toNat → exec i s = .next (s.answered i .badValue [])) ∧
    (c.toNat ≤ 15 →
      ((s.song.state = .stopped ∨ s.song.state = .finished) → exec i s = .next (s.answered i .notRunning [])) ∧
      (s.song.state = .armed → now = true →
        exec i s =
          .next ((s.mapSong fun g =>
            { g with state := .stopped, armed := 0, latch := false, abortSet := AbortSet.empty }).answered i .ok [])) ∧
      (s.songActive → now = false →
        exec i s = .next ((s.mapSong fun g => { g with abortSet := set, abortMeasure := n }).answered i .ok [])) ∧
      ((s.song.state = .running ∨ s.song.state = .halted) → now = true →
        ∃ t, exec i s = .next t ∧ SharedKept s t ∧ t.clock = s.clock ∧ t.scanner = s.scanner ∧
          t.refTime = s.refTime ∧ t.link.slot = some (replyFor i .ok []) ∧
          t.song.state = .finished ∧ t.song.cause = .aborted ∧ t.song.abortSet = AbortSet.empty ∧
          t.song.armed = s.song.armed ∧ t.song.abortMeasure = s.song.abortMeasure ∧
          (∀ k, s.song.armed.getLsbD k.val = true → (s.station k).state = .playing →
            (t.station k).state = .aborted ∧ (t.station k).queue = [] ∧
              (t.station k).context = (s.station k).context) ∧
          (∀ k, (s.song.armed.getLsbD k.val = false ∨ (s.station k).state ≠ .playing) →
            t.station k = s.station k)))) ∧
  (∀ (m : Half) (e : EndState) (s : State),
    ((s.song.state = .running ∨ s.song.state = .halted) →
      (s.song.abortSet.atMeasure = true ∨ (s.song.abortSet.atMeasureN = true ∧ m = s.song.abortMeasure)) →
      s.takePulse m = s.abortSong .aborted) ∧
    ((s.song.state ≠ .running ∧ s.song.state ≠ .halted) → s.takePulse m = s ∧ s.takeEnd e = s) ∧
    ((s.song.abortSet.atMeasure = false ∧ (s.song.abortSet.atMeasureN = false ∨ m ≠ s.song.abortMeasure)) →
      s.takePulse m = s) ∧
    ((s.song.state = .running ∨ s.song.state = .halted) → e = .failed → s.song.abortSet.onFail = true →
      s.takeEnd e = s.abortSong .aborted) ∧
    ((s.song.state = .running ∨ s.song.state = .halted) → (e ≠ .failed ∨ s.song.abortSet.onFail = false) →
      ((∃ k : StationId, s.song.armed.getLsbD k.val = true ∧ (s.station k).state = .playing) → s.takeEnd e = s) ∧
      ((∀ k : StationId, s.song.armed.getLsbD k.val = true → (s.station k).state ≠ .playing) →
        (s.takeEnd e).song =
          { s.song with state := .finished, cause := .complete, abortSet := AbortSet.empty,
                        halt := .stopped (s.song.halt.ms s.refTime) } ∧
        (s.takeEnd e).stations = s.stations ∧ (s.takeEnd e).clock = s.clock)))

/-! ### The cue engine (chapter 09) -/

/-- R155: CUE_STEPS_PUT writes all its records, past slot 255 at slot 0, or none. R187: a count outside 1 to 40 is
answered BAD_LENGTH; that a command with such a count is answered at once is the model's choice (log 1). -/
def Obligations.CueStepsPutWritesAllOrNone : Prop :=
  ∀ (start : Byte) (steps : List StepRec) (s : State), s.ready →
    let i := Instr.cueStepsPut start steps
    let good := fun r : StepRec => r.mode.toNat ≤ 2 ∧ r.line.toNat ≤ 47 ∧ 1 ≤ r.duration.toNat
    ((steps.length = 0 ∨ 40 < steps.length) → exec i s = .next (s.answered i .badLength [])) ∧
    (∀ before r after, steps.length ≤ 40 → steps = before ++ r :: after → (∀ x ∈ before, good x) → ¬ good r →
      exec i s = .next (s.answered i .badValue [BitVec.ofNat 8 before.length])) ∧
    (1 ≤ steps.length → steps.length ≤ 40 → (∀ x ∈ steps, good x) →
      ∃ memory : Vector CueStep 256,
        exec i s = .next ((s.mapCue fun e => { e with memory := memory }).answered i .ok
          [BitVec.ofNat 8 steps.length]) ∧
        (∀ j r, steps[j]? = some r → ∀ slot : SlotId, slot.val = (start.toNat + j) % 256 →
          (memory[slot]).line.val = r.line.toNat ∧ (memory[slot]).level = r.level ∧
          (memory[slot]).duration = r.duration.toNat ∧
          ((memory[slot]).mode = .fixed ↔ r.mode = 0#8) ∧ ((memory[slot]).mode = .triggerLane ↔ r.mode = 1#8)) ∧
        (∀ slot : SlotId, (∀ j, j < steps.length → slot.val ≠ (start.toNat + j) % 256) →
          memory[slot] = s.cue.memory[slot]))

/-- R153, R158, R168: CUE_CHANNEL_SET and CUE_STOP on a channel with no running step and on one whose running step owns its
line, which returns to its base level. -/
def Obligations.CueChannelSetAndStop : Prop :=
  ∀ (c : ChannelId) (b : Byte) (r : ChannelRec) (s : State), s.ready → b.toNat = c.val → r.channel = b →
    let release : CueEngine → CueEngine := fun e =>
      match (e.channels[c]).running with
      | some x =>
        if (e.lines[x.line]).owner = some { channel := c, serial := x.serial } then
          let base := (e.lines[x.line]).base
          let line : Line := { base := base, current := base, owner := none }
          { e with lines := e.lines.set x.line line }
        else e
      | none => e
    (cueConfigOf r = none → exec (.cueChannelSet r) s = .next (s.answered (.cueChannelSet r) .badValue [])) ∧
    (∀ cfg, cueConfigOf r = some cfg →
      exec (.cueChannelSet r) s =
        .next ((s.mapCue fun e =>
          let ch : CueChannel := { e.channels[c] with
            config := cfg, state := .armed, pointer := 0, waiting := [], overrun := false, lastLine := none }
          { (release e) with channels := e.channels.set c ch }).answered (.cueChannelSet r) .ok [])) ∧
    ((s.cue.channels[c]).state = .off →
      exec (.cueStop b) s = .next (s.answered (.cueStop b) .ok [])) ∧
    ((s.cue.channels[c]).state ≠ .off →
      exec (.cueStop b) s =
        .next ((s.mapCue fun e =>
          let ch : CueChannel := { e.channels[c] with state := .armed, pointer := 0, waiting := [] }
          { (release e) with channels := e.channels.set c ch }).answered (.cueStop b) .ok [])) ∧
    (∀ x : Byte, 7 < x.toNat →
      exec (.cueStop x) s = .next (s.answered (.cueStop x) .badValue []) ∧
      exec (.cueChannelSet { r with channel := x }) s =
        .next (s.answered (.cueChannelSet { r with channel := x }) .badValue []))

/-- R158: the checks of a channel's configuration, and the values it stores. R159: which channels a trigger is handed
to, and the record it carries. A trigger that is raised is taken by every channel it is handed to, in some order (log
6), and the notices that this leads to are offered; one raised while a hand-off is being taken is posted to each of
those channels (log 33). -/
def Obligations.CueConfigurationAndItsTriggers : Prop :=
  (∀ r : ChannelRec,
    let bad : Prop := r.stepCount.toNat = 0 ∨ 256 < r.stepCount.toNat ∨ 1 < r.mode.toNat ∨ 1 < r.endAction.toNat ∨
      1 < r.retrigger.toNat ∨ 8 < r.source.toNat ∨
      (r.source = 3#8 ∧ (r.stationMask.extractLsb' 0 4 = 0 ∨ r.laneMask.extractLsb' 0 9 = 0 ∨ r.resultSet = 0)) ∨
      (r.source = 4#8 ∧ r.stationMask.extractLsb' 0 4 = 0) ∨
      ((r.source = 7#8 ∨ r.source = 8#8) ∧ 7 < r.sourceChannel.toNat)
    (bad → cueConfigOf r = none) ∧
    (¬ bad → ∃ cfg, cueConfigOf r = some cfg ∧ cfg.first.val = r.firstStep.toNat ∧ cfg.count = r.stepCount.toNat ∧
      cfg.mode.code = r.mode.toNat ∧ cfg.endAction.code = r.endAction.toNat ∧
      (cfg.retrigger = .restart ↔ r.retrigger = 0#8) ∧ cfg.source.code = r.source.toNat ∧
      cfg.stations = r.stationMask.extractLsb' 0 4 ∧ cfg.lanes = r.laneMask.extractLsb' 0 9 ∧
      cfg.results = r.resultSet ∧ cfg.k = r.sourceChannel)) ∧
  (∀ (cfg : CueConfig) (c d : ChannelId) (k : StationId) (kind : ResultKind) (lanes : LaneSet) (record : TriggerRec),
    (cfg.takes c (.linkFire d) = true ↔ cfg.source = .linkFire ∧ d = c) ∧
    (cfg.takes c .measure = true ↔ cfg.source = .measure) ∧ (cfg.takes c .songStart = true ↔ cfg.source = .songStart) ∧
    (cfg.takes c (.chartMark d) = true ↔ cfg.source = .chartMark ∧ d = c) ∧
    (cfg.takes c (.stationEnd k) = true ↔ cfg.source = .stationEnd ∧ cfg.stations.getLsbD k.val = true) ∧
    (cfg.takes c (.result k kind lanes) = true ↔ cfg.source = .result ∧ cfg.stations.getLsbD k.val = true ∧
      lanes &&& cfg.lanes ≠ 0 ∧ cfg.results.getLsbD kind.code = true) ∧
    (cfg.takes c (.channelStep d record) = true ↔ cfg.source = .channelStep ∧ cfg.k.toNat = d.val) ∧
    (cfg.takes c (.channelDone d record) = true ↔ cfg.source = .channelDone ∧ cfg.k.toNat = d.val) ∧
    (Trigger.record (.stationEnd k) = { station := some k, lane := none }) ∧
    (∀ t ∈ [Trigger.linkFire d, .measure, .songStart, .chartMark d], t.record = { station := none, lane := none }) ∧
    Trigger.record (.channelStep d record) = record ∧ Trigger.record (.channelDone d record) = record ∧
    (∀ l : LaneId, lanes.getLsbD l.val = true → (∀ m : LaneId, m.val < l.val → lanes.getLsbD m.val = false) →
      Trigger.record (.result k kind lanes) = { station := some k, lane := some l })) ∧
  (∀ (g : Trigger) (s : State),
    let now := s.clock.songTime.toInt
    (s.outbox = none → ∃ (order : List ChannelId) (u : State),
      order.Perm (allCueChannels.filter fun c => (s.cue.channels[c]).config.takes c g) ∧
      u = { s with choices := u.choices, choiceCount := u.choiceCount } ∧
      s.raise g = order.foldl (fun (acc : State × List Report) c =>
        let x := acc.1.cue.takeTrigger acc.1.refTime c g.record
        ({ acc.1 with cue := x.1 }, acc.2 ++ x.2.map (Report.notice now))) (u, [])) ∧
    (∀ ps, s.outbox = some ps →
      s.raise g = ({ s with outbox := some (ps ++ (allCueChannels.filter fun c =>
        (s.cue.channels[c]).config.takes c g).map (Post.trigger g)) }, [])) ∧
    s.raiseNow g = (s.raise g).2.foldl (fun t r => t.offer r) (s.raise g).1)

/-- R152: LINE_BASE_SET gives each line it names its new base level, which a line without an owner shows at once. R167:
CUE_FIRE: its refusals, and a LINK_FIRE trigger taken by the channel: an OFF or DONE channel ignores it, an ARMED one
starts its step, a STEPPING one takes it as R160 says; the reply carries the state the trigger left. -/
def Obligations.LineBaseSetAndCueFire : Prop :=
  (∀ (first : Byte) (levels : List Byte) (s : State), s.ready → 1 ≤ levels.length → levels.length ≤ 48 →
    let i := Instr.lineBaseSet first levels
    ((47 < first.toNat ∨ 48 < first.toNat + levels.length) → exec i s = .next (s.answered i .badValue [])) ∧
    (first.toNat ≤ 47 → first.toNat + levels.length ≤ 48 →
      ∃ lines : Vector Line 48,
        exec i s = .next ((s.mapCue fun e => { e with lines := lines }).answered i .ok []) ∧
        (∀ j b, levels[j]? = some b → ∀ n : LineId, n.val = first.toNat + j →
          lines[n] = { s.cue.lines[n] with
            base := b, current := if (s.cue.lines[n]).owner = none then b else (s.cue.lines[n]).current }) ∧
        (∀ n : LineId, (n.val < first.toNat ∨ first.toNat + levels.length ≤ n.val) → lines[n] = s.cue.lines[n]))) ∧
  (∀ (b : Byte) (s : State), s.ready →
    (7 < b.toNat → exec (.cueFire b) s = .next (s.answered (.cueFire b) .badValue [])) ∧
    (∀ c : ChannelId, b.toNat = c.val →
      ((s.cue.channels[c]).config.source ≠ .linkFire →
        exec (.cueFire b) s = .next (s.answered (.cueFire b) .state [])) ∧
      ((s.cue.channels[c]).config.source = .linkFire → (s.cue.channels[c]).state = .off →
        exec (.cueFire b) s = .next (s.answered (.cueFire b) .ok [0#8])) ∧
      ((s.cue.channels[c]).config.source = .linkFire → (s.cue.channels[c]).state = .done →
        exec (.cueFire b) s = .next (s.answered (.cueFire b) .ok [3#8])) ∧
      ((s.cue.channels[c]).config.source = .linkFire → (s.cue.channels[c]).state = .armed →
        exec (.cueFire b) s =
          .next ((s.mapCue fun e => e.startStep s.refTime c { station := none, lane := none }).answered (.cueFire b) .ok
            [2#8])) ∧
      ((s.cue.channels[c]).config.source = .linkFire →
        ∃ t, exec (.cueFire b) s = .next t ∧
          t.cue = (s.cue.takeTrigger s.refTime c { station := none, lane := none }).1 ∧
          t.link.slot = some (replyFor (.cueFire b) .ok [BitVec.ofNat 8 (t.cue.channels[c]).state.code]) ∧
          SharedKept s t ∧ t.refTime = s.refTime ∧ t.clock = s.clock ∧ t.scanner = s.scanner ∧ t.song = s.song ∧
          t.stations = s.stations)))

/-- R160 to R162: a channel takes a trigger, by its state, mode and policy. -/
def Obligations.ChannelTakesATrigger : Prop :=
  ∀ (now : Nat) (c : ChannelId) (record : TriggerRec) (e : CueEngine),
    let ch := e.channels[c]
    let set := fun f : CueChannel → CueChannel => { e with channels := e.channels.set c (f ch) }
    ((ch.state = .off ∨ ch.state = .done) → e.takeTrigger now c record = (e, [])) ∧
    (ch.state = .armed → e.takeTrigger now c record = (e.startStep now c record, [])) ∧
    (∀ r, ch.state = .stepping r →
      (ch.config.mode = .single → ch.waiting.length < 7 →
        e.takeTrigger now c record = (set fun ch => { ch with waiting := ch.waiting ++ [record] }, [])) ∧
      (ch.config.mode = .single → 7 ≤ ch.waiting.length → ch.overrun = false →
        e.takeTrigger now c record = (set fun ch => { ch with overrun := true }, [.cueOverrun c])) ∧
      (ch.config.mode = .single → 7 ≤ ch.waiting.length → ch.overrun = true →
        e.takeTrigger now c record = (e, [])) ∧
      (ch.config.mode = .run → ch.config.retrigger = .ignore → e.takeTrigger now c record = (e, [])) ∧
      (ch.config.mode = .run → ch.config.retrigger = .restart →
        e.takeTrigger now c record =
          (((e.releaseStep c r).mapChannel c fun ch => { ch with pointer := 0 }).startStep now c record, []))) ∧
    (let step := e.memory[ch.config.slot ch.pointer]
     let t := e.startStep now c record
     ∃ line : LineId,
      (step.mode = .fixed → line = step.line) ∧
      (∀ k l, step.mode = .triggerLane → record = { station := some k, lane := some l } →
        line.val = k.val * 9 + l.val) ∧
      (step.mode = .triggerLane → record.lane = none → line = step.line) ∧
      (step.mode = .advance → (ch.pointer = 0 ∨ ch.lastLine = none) → line = step.line) ∧
      (∀ n : LineId, step.mode = .advance → ch.pointer ≠ 0 → ch.lastLine = some n →
        line.val = if n.val = 47 then 0 else n.val + 1) ∧
      t.lines[line] = { base := (e.lines[line]).base, current := step.level,
                        owner := some { channel := c, serial := ch.serial + 1 } } ∧
      (∀ n : LineId, n ≠ line → t.lines[n] = e.lines[n]) ∧ t.memory = e.memory ∧
      (∀ d : ChannelId, d ≠ c → t.channels[d] = e.channels[d]) ∧
      t.channels[c] = { ch with
        serial := ch.serial + 1, lastLine := some line,
        state := .stepping { step := step, line := line, serial := ch.serial + 1, record := record,
                             expiry := now + step.duration * 16000 } })

/-- R163, R164: the expiry of a channel's running step: its line is released where the step still owns it, the pointer
rises, and the channel goes on or ends its list, in each of the rows of R164. R165: the notices are offered, and each
trigger is then taken by every channel it is handed to, in some order (log 6). That reference time moves to the later of
now and the moment of the expiry is the model's choice (log 3). -/
def Obligations.StepExpires : Prop :=
  (∀ (c : ChannelId) (r : RunningStep) (s : State), (s.cue.channels[c]).state = .stepping r →
    ∃ t, exec (.stepExpiry c) s = .next t ∧ SharedKept s t ∧ t.refTime = max s.refTime r.expiry ∧
      t.clock = s.clock ∧ t.scanner = s.scanner ∧ t.song = s.song ∧ t.stations = s.stations ∧
      t.cue.memory = s.cue.memory ∧
      (let x := s.cue.expire (max s.refTime r.expiry) c r
       let u := x.notices.foldl (fun v n => v.offer (.notice s.clock.songTime.toInt n))
        { s with refTime := max s.refTime r.expiry, cue := x.cue }
       ∃ (order : List (Trigger × ChannelId)) (v : State),
        order.Perm (x.triggers.flatMap fun g =>
          (allCueChannels.filter fun d => (x.cue.channels[d]).config.takes d g).map fun d => (g, d)) ∧
        v = { u with choices := v.choices, choiceCount := v.choiceCount } ∧
        t = (order.foldl (fun v g =>
          let taken := v.cue.takeTrigger v.refTime g.2 g.1.record
          taken.2.foldl (fun v n => v.offer (.notice s.clock.songTime.toInt n)) { v with cue := taken.1 }) v).settle)) ∧
  (∀ (now : Nat) (c : ChannelId) (r : RunningStep) (e : CueEngine), (e.channels[c]).state = .stepping r →
    let ch := e.channels[c]
    let released := (e.releaseStep c r).mapChannel c fun ch => { ch with pointer := ch.pointer + 1 }
    let x := e.expire now c r
    (ch.pointer + 1 < ch.config.count →
      x.notices = [] ∧ x.triggers = [.channelStep c r.record] ∧
      (ch.config.mode = .run → x.cue = released.startStep now c r.record) ∧
      (ch.config.mode = .single → ch.waiting = [] →
        x.cue = released.mapChannel c fun ch => { ch with state := .armed }) ∧
      (∀ w rest, ch.config.mode = .single → ch.waiting = w :: rest →
        x.cue = (released.mapChannel c fun ch => { ch with waiting := rest }).startStep now c w)) ∧
    (ch.config.count ≤ ch.pointer + 1 →
      x.notices = [.cueDone c ch.config.endAction] ∧
      x.triggers = [.channelStep c r.record, .channelDone c r.record] ∧
      (ch.config.endAction = .stop →
        x.cue = released.mapChannel c fun ch => { ch with pointer := 0, waiting := [], state := .done }) ∧
      (ch.config.endAction = .loop → ch.config.mode = .run →
        x.cue = (released.mapChannel c fun ch => { ch with pointer := 0 }).startStep now c r.record) ∧
      (ch.config.endAction = .loop → ch.config.mode = .single → ch.waiting = [] →
        x.cue = released.mapChannel c fun ch => { ch with pointer := 0, state := .armed }) ∧
      (∀ w rest, ch.config.endAction = .loop → ch.config.mode = .single → ch.waiting = w :: rest →
        x.cue = (released.mapChannel c fun ch => { ch with pointer := 0, waiting := rest }).startStep now c w)))

/-! ### Invariants that every step keeps -/

/-- R5, R44, R124, R157, R176, R180: the sizes of the part's lists. A pending push has its place in the stack (R126),
and only a PLAYING station has one (R130). R9: the tempo map keeps its shape. R10, R44: each queue stays in order of
frame and of acceptance, each frame the conversion of its entry's tick under the map, no tick after the last accepted
one, the serials rising and below the next (the serial is the model's own, log 24). R89: a hold list keeps at most one
item a lane, in ascending lane order (a lane with an item takes no second, the model's choice, log 42). -/
def Obligations.ListsStayWithinTheirSizes : Prop :=
  (let Inv := fun s : State =>
    s.link.reports.length ≤ 64 ∧ s.link.loss ≤ 65535 ∧ s.link.occupancy ≤ 512 ∧ s.clock.map.length ≤ 64 ∧
      (∀ c : ChannelId, (s.cue.channels[c]).waiting.length ≤ 7) ∧
      ∀ k, (s.station k).queue.length ≤ 192 ∧ (s.station k).stack.length ≤ 4 ∧
        ((s.station k).pushPending = true → (s.station k).stack.length < 4 ∧ (s.station k).state = .playing)
  ∀ s t : State, Inv s → step s = .next t → Inv t) ∧
  (∀ s t : State, s.Ordered → step s = .next t → t.Ordered)

/-- R107, R110, R113, R118, R120, R124: the ranges of every score context, live and saved, its multiplier rung among
them (R111); with the ranges of the scoring table and the ladder on which they rest (R111, R117). -/
def Obligations.ScoresStayInTheirRanges : Prop :=
  let Good := fun (s : State) (c : ScoreContext) =>
    -34359738368 ≤ c.accumulator ∧ c.accumulator ≤ 34359738367 ∧ c.combo ≤ c.maxCombo ∧ c.maxCombo ≤ 4294967295 ∧
      c.life ≤ s.scoring.lifeMax ∧ (∀ kind : ResultKind, c.tally.counts.get kind ≤ 4294967295) ∧
      c.tally.strays ≤ 4294967295 ∧ c.rung ≤ 7
  let Inv := fun s : State =>
    1 ≤ s.scoring.lifeStart ∧ s.scoring.lifeStart ≤ s.scoring.lifeMax ∧ s.scoring.lifeMax ≤ 1000 ∧
      1 ≤ s.ladder.length ∧ s.ladder.length ≤ 8 ∧ (∀ r ∈ s.ladder, 16 ≤ r.multiplier ∧ r.multiplier ≤ 255) ∧
      ∀ k, Good s (s.station k).context ∧ ∀ c ∈ (s.station k).stack, Good s c
  ∀ s t : State, Inv s → step s = .next t → Inv t

/-- R151, R153: a line with no owner shows its base level. R139, R146: no end event and no report stays on its way at
the end of a command (logs 6 and 8), and no hand-off is left half taken (log 33). -/
def Obligations.LinesAndHandOffsSettle : Prop :=
  (∀ s t : State, (∀ n : LineId, (s.cue.lines[n]).owner = none → (s.cue.lines[n]).current = (s.cue.lines[n]).base) →
    step s = .next t →
    ∀ n : LineId, (t.cue.lines[n]).owner = none → (t.cue.lines[n]).current = (t.cue.lines[n]).base) ∧
  ∀ s t : State, s.quiescent → step s = .next t → t.quiescent

/-- The invariants hold right after reset, which is a ready state: the sizes, the order of the tempo map, of the queues
and of the hold lists, and the ranges. That it is ready rests on RXD being high at reset, the model's choice (log
16). -/
def Obligations.InvariantsHoldAtReset : Prop :=
  let s := State.reset
  s.ready ∧ s.Ordered ∧ s.link.reports.length ≤ 64 ∧ s.link.loss ≤ 65535 ∧ s.link.occupancy ≤ 512 ∧ s.clock.map.length ≤ 64 ∧
    (∀ c : ChannelId, (s.cue.channels[c]).waiting.length ≤ 7) ∧
    (∀ k, (s.station k).queue.length ≤ 192 ∧ (s.station k).stack.length ≤ 4 ∧ (s.station k).pushPending = false ∧
      (s.station k).context = ScoreContext.zero) ∧
    (1 ≤ s.scoring.lifeStart ∧ s.scoring.lifeStart ≤ s.scoring.lifeMax ∧ s.scoring.lifeMax ≤ 1000 ∧
      s.ladder.length = 1 ∧ ∀ r ∈ s.ladder, 16 ≤ r.multiplier ∧ r.multiplier ≤ 255) ∧
    ∀ n : LineId, (s.cue.lines[n]).current = (s.cue.lines[n]).base

end
end

