-- ==== Sys2Proof/Laws/Codec.lean ====
section
/-! SUPPORT. The laws of the link frame codec: a field read from the bytes it was written as is the field, and a list of
records likewise. -/

namespace Sys2Proof

theorem half_be16 (h : Half) : half (h.extractLsb' 8 8) (h.extractLsb' 0 8) = h := by
  unfold half
  ext i hi
  simp only [BitVec.getElem_append, BitVec.getElem_extractLsb']
  split
  · simp [BitVec.getLsbD_eq_getElem hi]
  · have : 8 + (i - 8) = i := by omega
    simp [this, BitVec.getLsbD_eq_getElem hi]

theorem field24_be24 (m : BitVec 24) :
    field24 (m.extractLsb' 16 8) (m.extractLsb' 8 8) (m.extractLsb' 0 8) = m := by
  unfold field24
  ext i hi
  simp only [BitVec.getElem_append, BitVec.getElem_extractLsb']
  split
  · simp [BitVec.getLsbD_eq_getElem hi]
  · split
    · have : 8 + (i - 8) = i := by omega
      simp [this, BitVec.getLsbD_eq_getElem hi]
    · have : 16 + (i - 8 - 8) = i := by omega
      simp [this, BitVec.getLsbD_eq_getElem hi]

theorem word_be32 (w : Word) :
    word (w.extractLsb' 24 8) (w.extractLsb' 16 8) (w.extractLsb' 8 8) (w.extractLsb' 0 8) = w := by
  unfold word
  ext i hi
  simp only [BitVec.getElem_append, BitVec.getElem_extractLsb']
  split
  · simp [BitVec.getLsbD_eq_getElem hi]
  · split
    · have : 8 + (i - 8) = i := by omega
      simp [this, BitVec.getLsbD_eq_getElem hi]
    · split
      · have : 16 + (i - 8 - 8) = i := by omega
        simp [this, BitVec.getLsbD_eq_getElem hi]
      · have : 24 + (i - 8 - 8 - 8) = i := by omega
        simp [this, BitVec.getLsbD_eq_getElem hi]

@[simp] theorem length_be16 (h : Half) : (be16 h).length = 2 := rfl
@[simp] theorem length_be24 (m : BitVec 24) : (be24 m).length = 3 := rfl
@[simp] theorem length_be32 (w : Word) : (be32 w).length = 4 := rfl
@[simp] theorem length_be40 (w : BitVec 40) : (be40 w).length = 5 := rfl
@[simp] theorem SegmentRec.length_bytes (r : SegmentRec) : r.bytes.length = 14 := rfl
@[simp] theorem NoteRec.length_bytes (r : NoteRec) : r.bytes.length = 10 := rfl
@[simp] theorem StepRec.length_bytes (r : StepRec) : r.bytes.length = 5 := rfl
@[simp] theorem RungRec.length_bytes (r : RungRec) : r.bytes.length = 5 := rfl

/-- The length of records of one size. -/
theorem length_records {α : Type} {f : α → List Byte} {n : Nat} (h : ∀ a, (f a).length = n) (as : List α) :
    (as.flatMap f).length = as.length * n := by
  induction as with
  | nil => simp
  | cons a as ih => simp only [List.flatMap_cons, List.length_append, h, ih, List.length_cons, Nat.succ_mul]; omega

theorem readSegments_bytes (rs : List SegmentRec) : readSegments rs.length (rs.flatMap SegmentRec.bytes) = some rs := by
  induction rs with
  | nil => rfl
  | cons r rs ih =>
    simp only [List.flatMap_cons, SegmentRec.bytes, be32, List.cons_append, List.nil_append, List.length_cons,
      readSegments, word_be32] at ih ⊢
    rw [ih]
    rfl

theorem readNotes_bytes (rs : List NoteRec) : readNotes rs.length (rs.flatMap NoteRec.bytes) = some rs := by
  induction rs with
  | nil => rfl
  | cons r rs ih =>
    simp only [List.flatMap_cons, NoteRec.bytes, be32, List.cons_append, List.nil_append, List.length_cons,
      readNotes, word_be32] at ih ⊢
    rw [ih]
    rfl

theorem readSteps_bytes (rs : List StepRec) : readSteps rs.length (rs.flatMap StepRec.bytes) = some rs := by
  induction rs with
  | nil => rfl
  | cons r rs ih =>
    simp only [List.flatMap_cons, StepRec.bytes, be16, List.cons_append, List.nil_append, List.length_cons,
      readSteps, half_be16] at ih ⊢
    rw [ih]
    rfl

theorem readRungs_bytes (rs : List RungRec) : readRungs rs.length (rs.flatMap RungRec.bytes) = some rs := by
  induction rs with
  | nil => rfl
  | cons r rs ih =>
    simp only [List.flatMap_cons, RungRec.bytes, be32, List.cons_append, List.nil_append, List.length_cons,
      readRungs, word_be32] at ih ⊢
    rw [ih]
    rfl

end Sys2Proof
end

