-- ==== Sys2Proof/Laws/State.lean ====
section
/-! SUPPORT. The small lemmas of the updates of State: what each leaves in each field, true by rfl. -/

namespace Sys2Proof.Machine

variable (s : State)

@[simp] theorem State.mapStation_pending (k : StationId) (f : Station → Station) : (s.mapStation k f).pending = s.pending := rfl
@[simp] theorem State.mapStation_refTime (k : StationId) (f : Station → Station) : (s.mapStation k f).refTime = s.refTime := rfl
@[simp] theorem State.mapStation_clock (k : StationId) (f : Station → Station) : (s.mapStation k f).clock = s.clock := rfl
@[simp] theorem State.mapStation_scanner (k : StationId) (f : Station → Station) : (s.mapStation k f).scanner = s.scanner := rfl
@[simp] theorem State.mapStation_stations (k : StationId) (f : Station → Station) : (s.mapStation k f).stations = s.stations.set k (f s.stations[k]) := rfl
@[simp] theorem State.mapStation_windows (k : StationId) (f : Station → Station) : (s.mapStation k f).windows = s.windows := rfl
@[simp] theorem State.mapStation_scoring (k : StationId) (f : Station → Station) : (s.mapStation k f).scoring = s.scoring := rfl
@[simp] theorem State.mapStation_ladder (k : StationId) (f : Station → Station) : (s.mapStation k f).ladder = s.ladder := rfl
@[simp] theorem State.mapStation_song (k : StationId) (f : Station → Station) : (s.mapStation k f).song = s.song := rfl
@[simp] theorem State.mapStation_cue (k : StationId) (f : Station → Station) : (s.mapStation k f).cue = s.cue := rfl
@[simp] theorem State.mapStation_link (k : StationId) (f : Station → Station) : (s.mapStation k f).link = s.link := rfl
@[simp] theorem State.mapStation_outbox (k : StationId) (f : Station → Station) : (s.mapStation k f).outbox = s.outbox := rfl
@[simp] theorem State.mapStation_choices (k : StationId) (f : Station → Station) : (s.mapStation k f).choices = s.choices := rfl
@[simp] theorem State.mapStation_choiceCount (k : StationId) (f : Station → Station) : (s.mapStation k f).choiceCount = s.choiceCount := rfl

@[simp] theorem State.mapSong_pending (f : Song → Song) : (s.mapSong f).pending = s.pending := rfl
@[simp] theorem State.mapSong_refTime (f : Song → Song) : (s.mapSong f).refTime = s.refTime := rfl
@[simp] theorem State.mapSong_clock (f : Song → Song) : (s.mapSong f).clock = s.clock := rfl
@[simp] theorem State.mapSong_scanner (f : Song → Song) : (s.mapSong f).scanner = s.scanner := rfl
@[simp] theorem State.mapSong_stations (f : Song → Song) : (s.mapSong f).stations = s.stations := rfl
@[simp] theorem State.mapSong_windows (f : Song → Song) : (s.mapSong f).windows = s.windows := rfl
@[simp] theorem State.mapSong_scoring (f : Song → Song) : (s.mapSong f).scoring = s.scoring := rfl
@[simp] theorem State.mapSong_ladder (f : Song → Song) : (s.mapSong f).ladder = s.ladder := rfl
@[simp] theorem State.mapSong_song (f : Song → Song) : (s.mapSong f).song = f s.song := rfl
@[simp] theorem State.mapSong_cue (f : Song → Song) : (s.mapSong f).cue = s.cue := rfl
@[simp] theorem State.mapSong_link (f : Song → Song) : (s.mapSong f).link = s.link := rfl
@[simp] theorem State.mapSong_outbox (f : Song → Song) : (s.mapSong f).outbox = s.outbox := rfl
@[simp] theorem State.mapSong_choices (f : Song → Song) : (s.mapSong f).choices = s.choices := rfl
@[simp] theorem State.mapSong_choiceCount (f : Song → Song) : (s.mapSong f).choiceCount = s.choiceCount := rfl

@[simp] theorem State.mapClock_pending (f : SongClock → SongClock) : (s.mapClock f).pending = s.pending := rfl
@[simp] theorem State.mapClock_refTime (f : SongClock → SongClock) : (s.mapClock f).refTime = s.refTime := rfl
@[simp] theorem State.mapClock_clock (f : SongClock → SongClock) : (s.mapClock f).clock = f s.clock := rfl
@[simp] theorem State.mapClock_scanner (f : SongClock → SongClock) : (s.mapClock f).scanner = s.scanner := rfl
@[simp] theorem State.mapClock_stations (f : SongClock → SongClock) : (s.mapClock f).stations = s.stations := rfl
@[simp] theorem State.mapClock_windows (f : SongClock → SongClock) : (s.mapClock f).windows = s.windows := rfl
@[simp] theorem State.mapClock_scoring (f : SongClock → SongClock) : (s.mapClock f).scoring = s.scoring := rfl
@[simp] theorem State.mapClock_ladder (f : SongClock → SongClock) : (s.mapClock f).ladder = s.ladder := rfl
@[simp] theorem State.mapClock_song (f : SongClock → SongClock) : (s.mapClock f).song = s.song := rfl
@[simp] theorem State.mapClock_cue (f : SongClock → SongClock) : (s.mapClock f).cue = s.cue := rfl
@[simp] theorem State.mapClock_link (f : SongClock → SongClock) : (s.mapClock f).link = s.link := rfl
@[simp] theorem State.mapClock_outbox (f : SongClock → SongClock) : (s.mapClock f).outbox = s.outbox := rfl
@[simp] theorem State.mapClock_choices (f : SongClock → SongClock) : (s.mapClock f).choices = s.choices := rfl
@[simp] theorem State.mapClock_choiceCount (f : SongClock → SongClock) : (s.mapClock f).choiceCount = s.choiceCount := rfl

@[simp] theorem State.mapScanner_pending (f : Scanner → Scanner) : (s.mapScanner f).pending = s.pending := rfl
@[simp] theorem State.mapScanner_refTime (f : Scanner → Scanner) : (s.mapScanner f).refTime = s.refTime := rfl
@[simp] theorem State.mapScanner_clock (f : Scanner → Scanner) : (s.mapScanner f).clock = s.clock := rfl
@[simp] theorem State.mapScanner_scanner (f : Scanner → Scanner) : (s.mapScanner f).scanner = f s.scanner := rfl
@[simp] theorem State.mapScanner_stations (f : Scanner → Scanner) : (s.mapScanner f).stations = s.stations := rfl
@[simp] theorem State.mapScanner_windows (f : Scanner → Scanner) : (s.mapScanner f).windows = s.windows := rfl
@[simp] theorem State.mapScanner_scoring (f : Scanner → Scanner) : (s.mapScanner f).scoring = s.scoring := rfl
@[simp] theorem State.mapScanner_ladder (f : Scanner → Scanner) : (s.mapScanner f).ladder = s.ladder := rfl
@[simp] theorem State.mapScanner_song (f : Scanner → Scanner) : (s.mapScanner f).song = s.song := rfl
@[simp] theorem State.mapScanner_cue (f : Scanner → Scanner) : (s.mapScanner f).cue = s.cue := rfl
@[simp] theorem State.mapScanner_link (f : Scanner → Scanner) : (s.mapScanner f).link = s.link := rfl
@[simp] theorem State.mapScanner_outbox (f : Scanner → Scanner) : (s.mapScanner f).outbox = s.outbox := rfl
@[simp] theorem State.mapScanner_choices (f : Scanner → Scanner) : (s.mapScanner f).choices = s.choices := rfl
@[simp] theorem State.mapScanner_choiceCount (f : Scanner → Scanner) : (s.mapScanner f).choiceCount = s.choiceCount := rfl

@[simp] theorem State.mapLink_pending (f : LinkPort → LinkPort) : (s.mapLink f).pending = s.pending := rfl
@[simp] theorem State.mapLink_refTime (f : LinkPort → LinkPort) : (s.mapLink f).refTime = s.refTime := rfl
@[simp] theorem State.mapLink_clock (f : LinkPort → LinkPort) : (s.mapLink f).clock = s.clock := rfl
@[simp] theorem State.mapLink_scanner (f : LinkPort → LinkPort) : (s.mapLink f).scanner = s.scanner := rfl
@[simp] theorem State.mapLink_stations (f : LinkPort → LinkPort) : (s.mapLink f).stations = s.stations := rfl
@[simp] theorem State.mapLink_windows (f : LinkPort → LinkPort) : (s.mapLink f).windows = s.windows := rfl
@[simp] theorem State.mapLink_scoring (f : LinkPort → LinkPort) : (s.mapLink f).scoring = s.scoring := rfl
@[simp] theorem State.mapLink_ladder (f : LinkPort → LinkPort) : (s.mapLink f).ladder = s.ladder := rfl
@[simp] theorem State.mapLink_song (f : LinkPort → LinkPort) : (s.mapLink f).song = s.song := rfl
@[simp] theorem State.mapLink_cue (f : LinkPort → LinkPort) : (s.mapLink f).cue = s.cue := rfl
@[simp] theorem State.mapLink_link (f : LinkPort → LinkPort) : (s.mapLink f).link = f s.link := rfl
@[simp] theorem State.mapLink_outbox (f : LinkPort → LinkPort) : (s.mapLink f).outbox = s.outbox := rfl
@[simp] theorem State.mapLink_choices (f : LinkPort → LinkPort) : (s.mapLink f).choices = s.choices := rfl
@[simp] theorem State.mapLink_choiceCount (f : LinkPort → LinkPort) : (s.mapLink f).choiceCount = s.choiceCount := rfl

@[simp] theorem State.mapCue_pending (f : CueEngine → CueEngine) : (s.mapCue f).pending = s.pending := rfl
@[simp] theorem State.mapCue_refTime (f : CueEngine → CueEngine) : (s.mapCue f).refTime = s.refTime := rfl
@[simp] theorem State.mapCue_clock (f : CueEngine → CueEngine) : (s.mapCue f).clock = s.clock := rfl
@[simp] theorem State.mapCue_scanner (f : CueEngine → CueEngine) : (s.mapCue f).scanner = s.scanner := rfl
@[simp] theorem State.mapCue_stations (f : CueEngine → CueEngine) : (s.mapCue f).stations = s.stations := rfl
@[simp] theorem State.mapCue_windows (f : CueEngine → CueEngine) : (s.mapCue f).windows = s.windows := rfl
@[simp] theorem State.mapCue_scoring (f : CueEngine → CueEngine) : (s.mapCue f).scoring = s.scoring := rfl
@[simp] theorem State.mapCue_ladder (f : CueEngine → CueEngine) : (s.mapCue f).ladder = s.ladder := rfl
@[simp] theorem State.mapCue_song (f : CueEngine → CueEngine) : (s.mapCue f).song = s.song := rfl
@[simp] theorem State.mapCue_cue (f : CueEngine → CueEngine) : (s.mapCue f).cue = f s.cue := rfl
@[simp] theorem State.mapCue_link (f : CueEngine → CueEngine) : (s.mapCue f).link = s.link := rfl
@[simp] theorem State.mapCue_outbox (f : CueEngine → CueEngine) : (s.mapCue f).outbox = s.outbox := rfl
@[simp] theorem State.mapCue_choices (f : CueEngine → CueEngine) : (s.mapCue f).choices = s.choices := rfl
@[simp] theorem State.mapCue_choiceCount (f : CueEngine → CueEngine) : (s.mapCue f).choiceCount = s.choiceCount := rfl

@[simp] theorem State.withOutbox_pending (o : Option (List Post)) : (s.withOutbox o).pending = s.pending := rfl
@[simp] theorem State.withOutbox_refTime (o : Option (List Post)) : (s.withOutbox o).refTime = s.refTime := rfl
@[simp] theorem State.withOutbox_clock (o : Option (List Post)) : (s.withOutbox o).clock = s.clock := rfl
@[simp] theorem State.withOutbox_scanner (o : Option (List Post)) : (s.withOutbox o).scanner = s.scanner := rfl
@[simp] theorem State.withOutbox_stations (o : Option (List Post)) : (s.withOutbox o).stations = s.stations := rfl
@[simp] theorem State.withOutbox_windows (o : Option (List Post)) : (s.withOutbox o).windows = s.windows := rfl
@[simp] theorem State.withOutbox_scoring (o : Option (List Post)) : (s.withOutbox o).scoring = s.scoring := rfl
@[simp] theorem State.withOutbox_ladder (o : Option (List Post)) : (s.withOutbox o).ladder = s.ladder := rfl
@[simp] theorem State.withOutbox_song (o : Option (List Post)) : (s.withOutbox o).song = s.song := rfl
@[simp] theorem State.withOutbox_cue (o : Option (List Post)) : (s.withOutbox o).cue = s.cue := rfl
@[simp] theorem State.withOutbox_link (o : Option (List Post)) : (s.withOutbox o).link = s.link := rfl
@[simp] theorem State.withOutbox_outbox (o : Option (List Post)) : (s.withOutbox o).outbox = o := rfl
@[simp] theorem State.withOutbox_choices (o : Option (List Post)) : (s.withOutbox o).choices = s.choices := rfl
@[simp] theorem State.withOutbox_choiceCount (o : Option (List Post)) : (s.withOutbox o).choiceCount = s.choiceCount := rfl

@[simp] theorem State.advanceTo_pending (t : Nat) : (s.advanceTo t).pending = s.pending := rfl
@[simp] theorem State.advanceTo_refTime (t : Nat) : (s.advanceTo t).refTime = max s.refTime t := rfl
@[simp] theorem State.advanceTo_clock (t : Nat) : (s.advanceTo t).clock = s.clock := rfl
@[simp] theorem State.advanceTo_scanner (t : Nat) : (s.advanceTo t).scanner = s.scanner := rfl
@[simp] theorem State.advanceTo_stations (t : Nat) : (s.advanceTo t).stations = s.stations := rfl
@[simp] theorem State.advanceTo_windows (t : Nat) : (s.advanceTo t).windows = s.windows := rfl
@[simp] theorem State.advanceTo_scoring (t : Nat) : (s.advanceTo t).scoring = s.scoring := rfl
@[simp] theorem State.advanceTo_ladder (t : Nat) : (s.advanceTo t).ladder = s.ladder := rfl
@[simp] theorem State.advanceTo_song (t : Nat) : (s.advanceTo t).song = s.song := rfl
@[simp] theorem State.advanceTo_cue (t : Nat) : (s.advanceTo t).cue = s.cue := rfl
@[simp] theorem State.advanceTo_link (t : Nat) : (s.advanceTo t).link = s.link := rfl
@[simp] theorem State.advanceTo_outbox (t : Nat) : (s.advanceTo t).outbox = s.outbox := rfl
@[simp] theorem State.advanceTo_choices (t : Nat) : (s.advanceTo t).choices = s.choices := rfl
@[simp] theorem State.advanceTo_choiceCount (t : Nat) : (s.advanceTo t).choiceCount = s.choiceCount := rfl

/-! ### Station records -/

theorem State.station_eq (k : StationId) : s.station k = s.stations[k] := rfl

@[simp] theorem State.station_mapStation_same (k : StationId) (f : Station → Station) :
    (s.mapStation k f).station k = f (s.station k) := by
  simp [State.station, State.mapStation]

theorem State.station_mapStation_ne {j k : StationId} (h : j ≠ k) (f : Station → Station) :
    (s.mapStation k f).station j = s.station j := by
  have : (k : Nat) ≠ j := fun e => h (Fin.ext e.symm)
  simp [State.station, State.mapStation, this]

theorem State.station_mapStation (j k : StationId) (f : Station → Station) :
    (s.mapStation k f).station j = if j = k then f (s.station j) else s.station j := by
  by_cases h : j = k
  · subst h; simp
  · simp [h, State.station_mapStation_ne]

@[simp] theorem State.station_mapSong (f : Song → Song) (k : StationId) : (s.mapSong f).station k = s.station k := rfl
@[simp] theorem State.station_mapClock (f : SongClock → SongClock) (k : StationId) : (s.mapClock f).station k = s.station k := rfl
@[simp] theorem State.station_mapScanner (f : Scanner → Scanner) (k : StationId) : (s.mapScanner f).station k = s.station k := rfl
@[simp] theorem State.station_mapLink (f : LinkPort → LinkPort) (k : StationId) : (s.mapLink f).station k = s.station k := rfl
@[simp] theorem State.station_mapCue (f : CueEngine → CueEngine) (k : StationId) : (s.mapCue f).station k = s.station k := rfl
@[simp] theorem State.station_withOutbox (o : Option (List Post)) (k : StationId) : (s.withOutbox o).station k = s.station k := rfl
@[simp] theorem State.station_advanceTo (t : Nat) (k : StationId) : (s.advanceTo t).station k = s.station k := rfl

/-- Two updates of one station are one update. -/
theorem State.mapStation_mapStation (k : StationId) (f g : Station → Station) :
    (s.mapStation k f).mapStation k g = s.mapStation k (fun st => g (f st)) := by
  simp [State.mapStation]

/-- Two updates that do the same to the record of the station. -/
theorem State.mapStation_congr {k : StationId} {f g : Station → Station} (h : f (s.station k) = g (s.station k)) :
    s.mapStation k f = s.mapStation k g := by
  have h' : f s.stations[k] = g s.stations[k] := h
  simp only [State.mapStation, h']

/-- An update that changes nothing. -/
theorem State.mapStation_id (k : StationId) : s.mapStation k (fun st => st) = s := by
  simp [State.mapStation]

theorem State.mapSong_mapSong (f g : Song → Song) : (s.mapSong f).mapSong g = s.mapSong (fun x => g (f x)) := rfl

theorem State.mapLink_mapLink (f g : LinkPort → LinkPort) :
    (s.mapLink f).mapLink g = s.mapLink (fun x => g (f x)) := rfl

theorem State.mapCue_mapCue (f g : CueEngine → CueEngine) : (s.mapCue f).mapCue g = s.mapCue (fun x => g (f x)) := rfl

/-! ### Cue records -/

@[simp] theorem CueEngine.mapChannel_same (c : ChannelId) (f : CueChannel → CueChannel) (e : CueEngine) :
    (e.mapChannel c f).channels[c] = f e.channels[c] := by
  simp [CueEngine.mapChannel]

theorem CueEngine.mapChannel_ne {c d : ChannelId} (h : d ≠ c) (f : CueChannel → CueChannel) (e : CueEngine) :
    (e.mapChannel c f).channels[d] = e.channels[d] := by
  have : (c : Nat) ≠ d := fun x => h (Fin.ext x.symm)
  simp [CueEngine.mapChannel, this]

@[simp] theorem CueEngine.mapChannel_lines (c : ChannelId) (f : CueChannel → CueChannel) (e : CueEngine) :
    (e.mapChannel c f).lines = e.lines := rfl

@[simp] theorem CueEngine.mapChannel_memory (c : ChannelId) (f : CueChannel → CueChannel) (e : CueEngine) :
    (e.mapChannel c f).memory = e.memory := rfl

@[simp] theorem CueEngine.mapLine_same (n : LineId) (f : Line → Line) (e : CueEngine) :
    (e.mapLine n f).lines[n] = f e.lines[n] := by
  simp [CueEngine.mapLine]

theorem CueEngine.mapLine_ne {m n : LineId} (h : m ≠ n) (f : Line → Line) (e : CueEngine) :
    (e.mapLine n f).lines[m] = e.lines[m] := by
  have : (n : Nat) ≠ m := fun x => h (Fin.ext x.symm)
  simp [CueEngine.mapLine, this]

@[simp] theorem CueEngine.mapLine_channels (n : LineId) (f : Line → Line) (e : CueEngine) :
    (e.mapLine n f).channels = e.channels := rfl

@[simp] theorem CueEngine.mapLine_memory (n : LineId) (f : Line → Line) (e : CueEngine) :
    (e.mapLine n f).memory = e.memory := rfl

end Sys2Proof.Machine
end

