-- ==== Sys2Proof/Laws/Moves.lean ====
section
/-! SUPPORT. Said once: what a command can do. Every operation is a chain of Moves, each with the guard under which the
model makes it; `exec_moves` says so of every command, and an invariant follows from its case analysis over Move. -/

namespace Sys2Proof.Machine

/-! ### The order of a queue and of a hold list -/

/-- What the order of a queue rests on: an entry's serial, tick and frame. -/
def Entry.place (e : Entry) : Nat × Nat × Int := (e.seq, e.tick, e.frame)

/-- R89: the lanes of a hold list, in its order. -/
def holdLanes (holds : List HoldItem) : List Nat := holds.map fun h => h.lane.val

/-- A station's queue loses entries and gains none, its order is kept, and so is R89's of the hold list. -/
structure Station.GoesOn (a b : Station) : Prop where
  queue : (b.queue.map Entry.place).Sublist (a.queue.map Entry.place)
  lastTick : b.intake.lastTick = a.intake.lastTick
  nextSeq : b.intake.nextSeq = a.intake.nextSeq
  holds : (holdLanes a.holds).Pairwise (· < ·) → (holdLanes b.holds).Pairwise (· < ·)

theorem Station.GoesOn.length {a b : Station} (h : a.GoesOn b) : b.queue.length ≤ a.queue.length := by
  simpa using h.queue.length_le

theorem Station.GoesOn.trans {a b c : Station} (h : a.GoesOn b) (g : b.GoesOn c) : a.GoesOn c :=
  ⟨g.queue.trans h.queue, g.lastTick.trans h.lastTick, g.nextSeq.trans h.nextSeq, fun p => g.holds (h.holds p)⟩

/-- The queue, the intake record and the hold list stand as they are. -/
theorem Station.GoesOn.same {a b : Station} (queue : b.queue = a.queue) (intake : b.intake = a.intake)
    (holds : b.holds = a.holds) : a.GoesOn b :=
  ⟨by rw [queue], by rw [intake], by rw [intake], fun p => by rwa [holds]⟩

/-- Entries leave from where they stand; the hold list loses items or none. -/
theorem Station.GoesOn.fewer {a b : Station} (queue : b.queue.Sublist a.queue) (intake : b.intake = a.intake)
    (holds : b.holds.Sublist a.holds) : a.GoesOn b :=
  ⟨queue.map _, by rw [intake], by rw [intake], fun p => p.sublist (holds.map _)⟩

/-! ### The moves -/

/-- What a command can do to one station record, under the tables and the tempo map in force. -/
inductive StationMove (scoring : Scoring) (ladder : List Rung) (map : List Segment) : Station → Station → Prop
  /-- entries, flags, counts, settings and the engine's lists; no entry is added -/
  | work (a b : Station) (state : b.state = a.state) (context : b.context = a.context) (stack : b.stack = a.stack)
      (pending : b.pushPending = a.pushPending) (goesOn : a.GoesOn b) : StationMove scoring ladder map a b
  | accept (a : Station) (w : Windows) (noteId : Half) (n : Incoming) (room : a.queue.length < 192)
      (order : ∀ last, a.intake.lastTick = some last → last ≤ n.tick)
      (converts : convert map n.tick = .frame n.frame) : StationMove scoring ladder map a (a.accept w noteId n)
  | result (a : Station) (kind : ResultKind) :
      StationMove scoring ladder map a
        { a with context := (applyResult scoring ladder a.noFail kind a.context).context }
  | stray (a : Station) :
      StationMove scoring ladder map a
        { a with context :=
            { a.context with tally := { a.context.tally with strays := tallyUp a.context.tally.strays } } }
  | play (a : Station) (b : Station) (loaded : a.state = .loaded) (playing : b.state = .playing)
      (context : b.context = a.context) (stack : b.stack = a.stack) (pending : b.pushPending = a.pushPending)
      (goesOn : a.GoesOn b) : StationMove scoring ladder map a b
  | ended (a : Station) (e : EndState) :
      StationMove scoring ladder map a
        (if a.pushPending then ({ a with state := e.station }).push else { a with state := e.station })
  | pushNow (a : Station) (free : a.pushPending = false) (room : a.stack.length < 4) :
      StationMove scoring ladder map a a.push
  | pushPending (a : Station) (pending : a.pushPending = true) : StationMove scoring ladder map a a.push
  | await (a : Station) (playing : a.state = .playing) (free : a.pushPending = false) (room : a.stack.length < 4) :
      StationMove scoring ladder map a { a with pushPending := true }
  | pop (a : Station) (c : ScoreContext) (rest : List ScoreContext) (top : a.stack = c :: rest)
      (free : a.pushPending = false) : StationMove scoring ladder map a { a with context := c, stack := rest }
  | drop (a : Station) (c : ScoreContext) (rest : List ScoreContext) (top : a.stack = c :: rest)
      (free : a.pushPending = false) : StationMove scoring ladder map a { a with stack := rest }
  | opened (a : Station) (m : OpenMode) (idle : a.state ≠ .playing) :
      StationMove scoring ladder map a (a.opened scoring.lifeStart m)
  | closed (a : Station) (idle : a.state ≠ .playing) :
      StationMove scoring ladder map a { a.noChart with state := .vacant }
  | cleared (a : Station) : StationMove scoring ladder map a a.cleared

/-- What a command can do to the link port. -/
inductive LinkMove : LinkPort → LinkPort → Prop
  | enqueue (l : LinkPort) (r : Report) : LinkMove l (l.enqueue r)
  | beginReport (l : LinkPort) : LinkMove l l.beginReport
  /-- everything but the report queue and the loss count -/
  | other (l m : LinkPort) (reports : m.reports = l.reports) (loss : m.loss = l.loss)
      (room : m.occupancy ≤ l.occupancy ∨ m.occupancy ≤ 512) : LinkMove l m
  | systemReset (l : LinkPort) : LinkMove l l.systemReset

/-- What a command can do to the cue engine. -/
inductive CueMove : CueEngine → CueEngine → Prop
  | start (now : Nat) (c : ChannelId) (record : TriggerRec) (e : CueEngine) : CueMove e (e.startStep now c record)
  | release (c : ChannelId) (r : RunningStep) (e : CueEngine) : CueMove e (e.releaseStep c r)
  | base (n : LineId) (level : Byte) (e : CueEngine) : CueMove e (e.mapLine n (Line.setBase level))
  | memory (m : Vector CueStep 256) (e : CueEngine) : CueMove e { e with memory := m }
  /-- channel records; a pending list that grows stays within 7 -/
  | channels (chs : Vector CueChannel 8) (e : CueEngine)
      (waiting : ∀ c : ChannelId, (chs[c]).waiting.length ≤ (e.channels[c]).waiting.length ∨
        (chs[c]).waiting.length ≤ 7) : CueMove e { e with channels := chs }
  | systemReset (e : CueEngine) : CueMove e e.systemReset

/-- What a command can do to the part, one thing at a time, leaving the song clock, the scanner, the shared tables,
reference time and the queue of commands as they are. -/
inductive InnerMove : State → State → Prop
  | choices (s : State) (c : List Nat) (n : Nat) : InnerMove s { s with choices := c, choiceCount := n }
  | song (s : State) (f : Song → Song) : InnerMove s (s.mapSong f)
  | station (s : State) (k : StationId) (f : Station → Station)
      (move : StationMove s.scoring s.ladder s.clock.map (s.station k) (f (s.station k))) : InnerMove s (s.mapStation k f)
  | link (s : State) (f : LinkPort → LinkPort) (move : LinkMove s.link (f s.link)) : InnerMove s (s.mapLink f)
  | cue (s : State) (f : CueEngine → CueEngine) (move : CueMove s.cue (f s.cue)) : InnerMove s (s.mapCue f)
  /-- a post of the hand-off being taken -/
  | post (s : State) (ps posted : List Post) (taking : s.outbox = some ps) : InnerMove s (s.withOutbox (some posted))

/-- What a command can do to the part, one thing at a time. -/
inductive Move : State → State → Prop
  | inner {s t : State} (move : InnerMove s t) : Move s t
  | time (s : State) (t : Nat) : Move s { s with refTime := t }
  | clock (s : State) (f : SongClock → SongClock) (map : (f s.clock).map = s.clock.map) : Move s (s.mapClock f)
  /-- the tempo map changes while every queue is empty (R11) -/
  | tempo (s : State) (f : SongClock → SongClock) (room : (f s.clock).map.length ≤ 64) (idle : s.anyQueued = false)
      (map : (f s.clock).map = [] ∨
        ∃ segments, appendSegments s.clock.origin s.clock.map segments 0 = .ok (f s.clock).map) :
      Move s (s.mapClock f)
  | scanner (s : State) (f : Scanner → Scanner) : Move s (s.mapScanner f)
  | windows (s : State) (r : WindowsRec) (w : Windows) (passed : windowsOf r = some w) :
      Move s { s with windows := w, stations := s.stations.map fun st => { st with intake := st.intake.rewindow w } }
  | scoring (s : State) (r : ScoringRec) (x : Scoring) (passed : scoringOf r = some x) :
      Move s { s with
        scoring := x,
        stations := s.stations.map fun st =>
          { st with
            context := st.context.clampLife x.lifeMax,
            stack := st.stack.map (ScoreContext.clampLife x.lifeMax) } }
  | ladder (s : State) (l : List Rung) (passed : ladderOk l = true) :
      Move s { s with
        ladder := l,
        stations := s.stations.map fun st =>
          { st with context := { st.context with rung := rungFor l st.context.combo } } }
  | systemReset (s : State) : Move s s.systemReset
  | pinReset (s : State) (straps : BitVec 2) : Move s (s.pinReset straps)

/-- A chain of inner moves. -/
abbrev InnerMoves : State → State → Prop := Relation.ReflTransGen InnerMove

/-- A chain of moves. -/
abbrev Moves : State → State → Prop := Relation.ReflTransGen Move

theorem InnerMove.moves {s t : State} (h : InnerMove s t) : InnerMoves s t := .single h

theorem Move.moves {s t : State} (h : Move s t) : Moves s t := .single h

/-- Inner moves are moves. -/
theorem InnerMoves.moves {s t : State} (h : InnerMoves s t) : Moves s t := by
  induction h with
  | refl => exact .refl
  | tail _ m ih => exact ih.tail (.inner m)

/-- What inner moves leave as it is. -/
theorem InnerMoves.frame {s t : State} (h : InnerMoves s t) :
    t.pending = s.pending ∧ t.refTime = s.refTime ∧ t.clock = s.clock ∧ t.scanner = s.scanner ∧
      t.windows = s.windows ∧ t.scoring = s.scoring ∧ t.ladder = s.ladder := by
  induction h with
  | refl => exact ⟨rfl, rfl, rfl, rfl, rfl, rfl, rfl⟩
  | tail _ m ih => cases m <;> exact ih

/-- Inner moves begin no hand-off and end none. -/
theorem InnerMoves.outbox {s t : State} (h : InnerMoves s t) : t.outbox.isSome = s.outbox.isSome := by
  induction h with
  | refl => rfl
  | tail _ m ih =>
    cases m with
    | post ps posted taking => rw [← ih, taking]; rfl
    | _ => exact ih

/-- Inner moves do not rest on what has been posted. -/
theorem InnerMoves.withOutbox {s t : State} (h : InnerMoves s t) (o : Option (List Post)) :
    InnerMoves (s.withOutbox o) (t.withOutbox o) := by
  induction h with
  | refl => exact .refl
  | tail _ m ih =>
    cases m with
    | choices c n => exact ih.tail (.choices _ c n)
    | song f => exact ih.tail (.song _ f)
    | station k f move => exact ih.tail (.station _ k f move)
    | link f move => exact ih.tail (.link _ f move)
    | cue f move => exact ih.tail (.cue _ f move)
    | post ps posted taking => exact ih

/-- With no hand-off being taken, no move begins one that lasts. -/
theorem Moves.outbox_none {s t : State} (h : Moves s t) (none : s.outbox = none) : t.outbox = .none := by
  induction h with
  | refl => exact none
  | tail _ m ih =>
    cases m with
    | inner m =>
      have e := InnerMoves.outbox (.single m)
      rw [ih] at e
      exact Option.isSome_eq_false_iff.mp e |> Option.isNone_iff_eq_none.mp
    | pinReset straps => rfl
    | _ => exact ih

/-- No move changes the queue of commands. -/
theorem Moves.pending {s t : State} (h : Moves s t) : t.pending = s.pending := by
  induction h with
  | refl => rfl
  | tail _ m ih =>
    cases m with
    | inner m => cases m <;> exact ih
    | _ => exact ih

/-- An invariant that every move keeps holds after every chain of moves. -/
theorem Moves.keep {P : State → Prop} (step : ∀ s t, Move s t → P s → P t) {s t : State} (h : Moves s t) (hs : P s) :
    P t := by
  induction h with
  | refl => exact hs
  | tail _ m ih => exact step _ _ m ih

/-! ### Orders -/

theorem choose_snd (n : Nat) (s : State) :
    (s.choose n).2 =
      { s with choices := s.choices.tail, choiceCount := s.choiceCount + if s.choices.isEmpty then 1 else 0 } := by
  unfold State.choose
  split <;> rename_i h <;> simp [h]

theorem chooseIf_snd (b : Bool) (s : State) : (s.chooseIf b).2 = if b then (s.choose 2).2 else s := by
  unfold State.chooseIf
  split
  · split <;> rename_i h <;> rw [h]
  · rfl

theorem choose_moves (n : Nat) (s : State) : InnerMoves s (s.choose n).2 := by
  rw [choose_snd]
  exact (InnerMove.choices _ _ _).moves

theorem chooseIf_moves (b : Bool) (s : State) : InnerMoves s (s.chooseIf b).2 := by
  rw [chooseIf_snd]
  split
  · exact choose_moves 2 s
  · exact .refl

theorem shuffle_moves {α : Type} (n : Nat) (as : List α) (s : State) : InnerMoves s (shuffle n as s).2 := by
  induction n generalizing as s with
  | zero => unfold shuffle; exact .refl
  | succ n ih =>
    match as with
    | [] => exact .refl
    | [_] => exact .refl
    | a :: b :: rest => exact (choose_moves _ _).trans (ih _ _)

theorem weave_moves {α : Type} (n : Nat) (ss : List (List α)) (s : State) : InnerMoves s (weave n ss s).2 := by
  induction n generalizing ss s with
  | zero => exact .refl
  | succ n ih =>
    unfold weave
    split
    · exact .refl
    · exact .refl
    · exact (choose_moves _ _).trans (ih _ _)

/-- The members of a list in an open order are its members. -/
theorem shuffle_perm {α : Type} (n : Nat) (as : List α) (s : State) : (shuffle n as s).1.Perm as := by
  induction n generalizing as s with
  | zero => unfold shuffle; exact .refl _
  | succ n ih =>
    match as with
    | [] => exact .refl _
    | [_] => exact .refl _
    | a :: b :: rest =>
      unfold shuffle
      simp only
      generalize hc : s.choose (rest.length + 2) = x
      obtain ⟨c, s'⟩ := x
      have lt : c < (a :: b :: rest).length := by
        have : (s.choose (rest.length + 2)).1 < rest.length + 2 := by
          unfold State.choose
          split <;> exact Nat.mod_lt _ (by omega)
        rw [hc] at this
        simp only [List.length_cons]
        omega
      simp only
      refine ((ih _ _).cons _).trans ?_
      rw [List.getD_eq_getElem _ _ lt]
      exact List.getElem_cons_eraseIdx_perm lt

theorem foldl_moves {α : Type} {f : State → α → State} (h : ∀ s a, InnerMoves s (f s a)) (as : List α) (s : State) :
    InnerMoves s (as.foldl f s) := by
  induction as generalizing s with
  | nil => exact .refl
  | cons a as ih => exact (h s a).trans (ih _)

theorem inAnyOrder_moves {α : Type} {f : α → State → State} (h : ∀ a s, InnerMoves s (f a s)) (as : List α) (s : State) :
    InnerMoves s (inAnyOrder f as s) :=
  (shuffle_moves _ _ _).trans (foldl_moves (fun s a => h a s) _ _)

theorem foldl_moves_of_mem {α : Type} {f : State → α → State} (as : List α)
    (h : ∀ a ∈ as, ∀ s, InnerMoves s (f s a)) (s : State) : InnerMoves s (as.foldl f s) := by
  induction as generalizing s with
  | nil => exact .refl
  | cons a as ih =>
    exact (h a (.head _) s).trans (ih (fun b hb => h b (.tail _ hb)) _)

theorem inAnyOrder_moves_of_mem {α : Type} {f : α → State → State} (as : List α)
    (h : ∀ a ∈ as, ∀ s, InnerMoves s (f a s)) (s : State) : InnerMoves s (inAnyOrder f as s) :=
  (shuffle_moves _ _ _).trans
    (foldl_moves_of_mem _ (fun a ha s => h a ((shuffle_perm _ _ _).mem_iff.mp ha) s) _)

theorem interleaveAll_moves {α : Type} {f : α → State → State} (h : ∀ a s, InnerMoves s (f a s)) (ss : List (List α))
    (s : State) : InnerMoves s (interleaveAll f ss s) :=
  (weave_moves _ _ _).trans (foldl_moves (fun s a => h a s) _ _)

/-! ### Reports and the transmitter -/

theorem beginNext_linkMove (l : LinkPort) : LinkMove l l.beginNext := by
  unfold LinkPort.beginNext
  split
  · exact .other _ _ rfl rfl (.inl (Nat.le_refl _))
  · exact .beginReport _

theorem settle_moves (s : State) : InnerMoves s s.settle := by
  refine (InnerMove.link s _ ?_).moves
  unfold LinkPort.settle
  split
  · exact beginNext_linkMove _
  · exact .other _ _ rfl rfl (.inl (Nat.le_refl _))

theorem enqueue_moves (r : Report) (s : State) : InnerMoves s (s.mapLink (LinkPort.enqueue r)) :=
  (InnerMove.link s _ (.enqueue _ _)).moves

theorem beginReport_moves (s : State) : InnerMoves s (s.mapLink LinkPort.beginReport) :=
  (InnerMove.link s _ (.beginReport _)).moves

theorem takeOffer_moves (r : Report) (s : State) : InnerMoves s (s.takeOffer r) := by
  unfold State.takeOffer
  split
  · exact .refl
  · split
    · have h := choose_moves 2 s
      split <;> (rename_i e; rw [e] at h)
      · exact h.trans (enqueue_moves r _)
      · exact h.trans ((beginReport_moves _).trans (enqueue_moves r _))
    · exact enqueue_moves r s

theorem offer_moves (r : Report) (s : State) : InnerMoves s (s.offer r) := by
  unfold State.offer
  split
  · rename_i e; exact (InnerMove.post s _ _ e).moves
  · exact takeOffer_moves r s

theorem notify_moves (n : Notice) (s : State) : InnerMoves s (s.notify n) := offer_moves _ _

theorem offerAll_moves (rs : List Report) (s : State) : InnerMoves s (rs.foldl (fun s r => s.offer r) s) :=
  foldl_moves (fun s r => offer_moves r s) rs s

theorem offerAny_moves (rs : List Report) (s : State) : InnerMoves s (s.offerAny rs) := inAnyOrder_moves offer_moves rs s

theorem offerStreams_moves (ss : List (List Report)) (s : State) : InnerMoves s (s.offerStreams ss) :=
  interleaveAll_moves offer_moves ss s

theorem offerNowOrLater_moves (rs : List Report) (s : State) : InnerMoves s (s.offerNowOrLater rs) := by
  unfold State.offerNowOrLater
  split
  · exact .refl
  · have h := choose_moves 2 s
    split <;> (rename_i e; rw [e] at h)
    · exact h.trans (offerAny_moves _ _)
    · exact h.trans (InnerMove.link _ _ (.other _ _ rfl rfl (.inl (Nat.le_refl _)))).moves

/-! ### Chart counts and plain work on a station -/

/-- Work on station k that adds no entry and keeps its state, context, stack and pending push. -/
theorem work_moves (k : StationId) (f : Station → Station) (s : State) (state : (f (s.station k)).state = (s.station k).state)
    (context : (f (s.station k)).context = (s.station k).context) (stack : (f (s.station k)).stack = (s.station k).stack)
    (pending : (f (s.station k)).pushPending = (s.station k).pushPending)
    (goesOn : (s.station k).GoesOn (f (s.station k))) : InnerMoves s (s.mapStation k f) :=
  (InnerMove.station s k f (.work _ _ state context stack pending goesOn)).moves

theorem countUp_moves (k : StationId) (c : CountKind) (n : Nat) (s : State) : InnerMoves s (s.countUp k c n) := by
  unfold State.countUp
  split
  · exact work_moves k _ s rfl rfl rfl rfl (.same rfl rfl rfl)
  · exact (work_moves k _ s rfl rfl rfl rfl (.same rfl rfl rfl)).trans (InnerMove.choices _ _ _).moves

/-! ### The cue engine -/

/-- A chain of moves of the cue engine. -/
abbrev CueMoves : CueEngine → CueEngine → Prop := Relation.ReflTransGen CueMove

theorem CueMove.moves {a b : CueEngine} (h : CueMove a b) : CueMoves a b := .single h

/-- A chain of moves of the cue engine is a chain of moves of the part. -/
theorem cue_moves {a b : CueEngine} (h : CueMoves a b) (s : State) (hs : s.cue = a) : InnerMoves s { s with cue := b } := by
  induction h with
  | refl => rw [← hs]
  | tail _ m ih => exact ih.tail (InnerMove.cue _ (fun _ => _) m)

theorem mapChannel_moves (c : ChannelId) (f : CueChannel → CueChannel) (e : CueEngine)
    (h : (f e.channels[c]).waiting.length ≤ (e.channels[c]).waiting.length ∨ (f e.channels[c]).waiting.length ≤ 7) :
    CueMoves e (e.mapChannel c f) := by
  refine (CueMove.channels _ e fun d => ?_).moves
  by_cases hd : d = c
  · subst hd; simpa using h
  · left
    have := CueEngine.mapChannel_ne hd f e
    exact Nat.le_of_eq (congrArg (fun ch => ch.waiting.length) this)

theorem releaseRunning_moves (c : ChannelId) (e : CueEngine) : CueMoves e (e.releaseRunning c) := by
  unfold CueEngine.releaseRunning
  split
  · exact (CueMove.release _ _ _).moves
  · exact .refl

theorem startStep_moves (now : Nat) (c : ChannelId) (record : TriggerRec) (e : CueEngine) :
    CueMoves e (e.startStep now c record) := (CueMove.start _ _ _ _).moves

theorem restart_moves (now : Nat) (c : ChannelId) (record : TriggerRec) (e : CueEngine) :
    CueMoves e (e.restart now c record) :=
  (releaseRunning_moves c e).trans
    ((mapChannel_moves c (fun ch => { ch with pointer := 0 }) _ (.inl (Nat.le_refl _))).trans (startStep_moves _ _ _ _))

theorem enqueueTrigger_moves (c : ChannelId) (record : TriggerRec) (e : CueEngine) :
    CueMoves e (e.enqueueTrigger c record).1 := by
  unfold CueEngine.enqueueTrigger
  simp only
  split
  · rename_i h
    refine mapChannel_moves c (fun ch => { ch with waiting := ch.waiting ++ [record] }) _ (.inr ?_)
    simp only [List.length_append, List.length_cons, List.length_nil]
    omega
  · split
    · exact .refl
    · exact mapChannel_moves c (fun ch => { ch with overrun := true }) _ (.inl (Nat.le_refl _))

theorem takeTrigger_moves (now : Nat) (c : ChannelId) (record : TriggerRec) (e : CueEngine) :
    CueMoves e (e.takeTrigger now c record).1 := by
  unfold CueEngine.takeTrigger
  simp only
  split
  · exact .refl
  · exact .refl
  · exact startStep_moves _ _ _ _
  · split
    · exact enqueueTrigger_moves _ _ _
    · exact restart_moves _ _ _ _
    · exact .refl

theorem deliver_moves (now : Nat) (record : TriggerRec) (cs : List ChannelId) (e : CueEngine) :
    CueMoves e (CueEngine.deliver now record cs e).1 := by
  induction cs generalizing e with
  | nil => exact .refl
  | cons c rest ih => exact (takeTrigger_moves now c record e).trans (ih _)

theorem handTrigger_moves (t : Trigger) (s : State) : InnerMoves s (s.handTrigger t).1 :=
  (shuffle_moves _ _ _).trans (cue_moves (deliver_moves _ _ _ _) _ rfl)

theorem raise_moves (t : Trigger) (s : State) : InnerMoves s (s.raise t).1 := by
  unfold State.raise
  split
  · rename_i e; exact (InnerMove.post s _ _ e).moves
  · exact handTrigger_moves t s

theorem raiseNow_moves (t : Trigger) (s : State) : InnerMoves s (s.raiseNow t) :=
  (raise_moves t s).trans (offerAll_moves _ _)

theorem goOn_moves (now : Nat) (c : ChannelId) (ended : TriggerRec) (e : CueEngine) : CueMoves e (e.goOn now c ended) := by
  unfold CueEngine.goOn
  simp only
  split
  · rename_i h
    refine (mapChannel_moves c (fun ch => { ch with waiting := _ }) _ (.inl ?_)).trans (startStep_moves _ _ _ _)
    simp only [h, List.length_cons]
    omega
  · exact mapChannel_moves c (fun ch => { ch with state := .armed }) _ (.inl (Nat.le_refl _))
  · exact startStep_moves _ _ _ _

theorem listEnd_moves (now : Nat) (c : ChannelId) (ended : TriggerRec) (e : CueEngine) :
    CueMoves e (e.listEnd now c ended) := by
  unfold CueEngine.listEnd
  simp only
  refine (mapChannel_moves c (fun ch => { ch with pointer := 0 }) _ (.inl (Nat.le_refl _))).trans ?_
  split
  · exact mapChannel_moves c (fun ch => { ch with waiting := [], state := .done }) _ (.inr (Nat.zero_le _))
  · exact goOn_moves _ _ _ _

theorem expire_moves (now : Nat) (c : ChannelId) (r : RunningStep) (e : CueEngine) :
    CueMoves e (e.expire now c r).cue := by
  unfold CueEngine.expire
  simp only
  refine (CueMove.release c r e).moves.trans ((mapChannel_moves c (fun ch => { ch with pointer := ch.pointer + 1 }) _
    (.inl (Nat.le_refl _))).trans ?_)
  split
  · exact listEnd_moves _ _ _ _
  · exact goOn_moves _ _ _ _

theorem takeChained_moves (d : Trigger × ChannelId) (s : State) : InnerMoves s (s.takeChained d) :=
  (cue_moves (takeTrigger_moves _ _ _ _) s rfl).trans (foldl_moves (fun s n => notify_moves n s) _ _)

theorem takePost_moves (p : Post) (s : State) : InnerMoves s (s.takePost p) := by
  unfold State.takePost
  split
  · exact offer_moves _ _
  · exact takeChained_moves _ _

theorem postsDeliver_moves (ss : List (List Post)) (s : State) : InnerMoves s (s.deliver ss) :=
  interleaveAll_moves takePost_moves ss s

/-- A hand-off taken alone makes its moves. -/
theorem closeOutbox_moves {s t : State} (h : InnerMoves (s.withOutbox (some [])) t) :
    InnerMoves s (t.closeOutbox s.outbox) :=
  (h.withOutbox s.outbox).trans (postsDeliver_moves _ _)

theorem expireStep_moves (c : ChannelId) (r : RunningStep) (s : State) : InnerMoves s (s.expireStep c r) :=
  (cue_moves (expire_moves _ _ _ _) s rfl).trans
    ((foldl_moves (fun s n => notify_moves n s) _ _).trans (inAnyOrder_moves takeChained_moves _ _))

theorem setBases_moves (n : Nat) (levels : List Byte) (e : CueEngine) : CueMoves e (e.setBases n levels) := by
  induction levels generalizing n e with
  | nil => exact .refl
  | cons level rest ih =>
    unfold CueEngine.setBases
    refine Relation.ReflTransGen.trans ?_ (ih (n + 1) _)
    split
    · exact (CueMove.base _ _ _).moves
    · exact .refl

/-! ### Pushes and the ends of a station -/

theorem takePush_moves (k : StationId) (point : PushPoint) (s : State) : InnerMoves s (s.takePush k point).1 := by
  unfold State.takePush
  simp only
  split
  · rename_i h; exact (InnerMove.station s k _ (.pushPending _ h)).moves
  · exact .refl

theorem testPush_moves (k : StationId) (s : State) : InnerMoves s (s.testPush k) := by
  unfold State.testPush
  split
  · exact (takePush_moves k .quiet s).trans (offerAll_moves _ _)
  · exact .refl

theorem drain_moves (k : StationId) (s : State) : InnerMoves s (s.drain k) :=
  (countUp_moves _ _ _ _).trans
    ((countUp_moves _ _ _ _).trans (work_moves k _ _ rfl rfl rfl rfl
    (.fewer (List.nil_sublist _) rfl (List.nil_sublist _))))

end Sys2Proof.Machine
end

