-- ==== Sys2Proof/Laws/EngineMoves.lean ====
section
/-! SUPPORT. What the judgement engine, intake and song control can do, as chains of Moves. -/

namespace Sys2Proof.Machine

/-! ### Work on a station record -/

/-- An update that adds no entry and keeps the state, the context, the stack and the pending push. -/
def Works (f : Station → Station) : Prop :=
  ∀ st, (f st).state = st.state ∧ (f st).context = st.context ∧ (f st).stack = st.stack ∧
    (f st).pushPending = st.pushPending ∧ st.GoesOn (f st)

theorem Works.moves {f : Station → Station} (h : Works f) (k : StationId) (s : State) : InnerMoves s (s.mapStation k f) :=
  let ⟨a, b, c, d, e⟩ := h (s.station k)
  work_moves k f s a b c d e

theorem Works.comp {f g : Station → Station} (hf : Works f) (hg : Works g) : Works fun st => g (f st) := fun st =>
  let ⟨a, b, c, d, e⟩ := hf st
  let ⟨a', b', c', d', e'⟩ := hg (f st)
  ⟨a'.trans a, b'.trans b, c'.trans c, d'.trans d, e.trans e'⟩

theorem without_works (seqs : List Nat) : Works (Station.without seqs) := fun _ =>
  ⟨rfl, rfl, rfl, rfl, .fewer List.filter_sublist rfl (.refl _)⟩

/-- A change of entries that keeps the place of each. -/
theorem mapEntries_place (seqs : List Nat) {f : Entry → Entry} (h : ∀ e, (f e).place = e.place) (st : Station) :
    (st.mapEntries seqs f).queue.map Entry.place = st.queue.map Entry.place := by
  simp only [Station.mapEntries, List.map_map]
  refine List.map_congr_left fun e _ => ?_
  simp only [Function.comp_apply]
  split
  · exact h e
  · rfl

theorem mapEntries_works (seqs : List Nat) {f : Entry → Entry} (h : ∀ e, (f e).place = e.place) :
    Works (Station.mapEntries seqs f) := fun st =>
  ⟨rfl, rfl, rfl, rfl, by rw [mapEntries_place seqs h], rfl, rfl, id⟩

/-- Entries of some serials enter a state. -/
theorem setState_moves (k : StationId) (seqs : List Nat) (x : EntryState) (s : State) :
    InnerMoves s (s.mapStation k (Station.mapEntries seqs fun e => { e with state := x })) :=
  (mapEntries_works seqs (f := fun e => { e with state := x }) fun _ => rfl).moves k s

/-- New deadlines keep the order of a hold list. -/
theorem holdLanes_map {f : HoldItem → HoldItem} (h : ∀ x, (f x).lane = x.lane) (holds : List HoldItem) :
    holdLanes (holds.map f) = holdLanes holds := by
  simp [holdLanes, h]

theorem setDeadline_works (l : LaneId) (d : Deadline) : Works (Station.setDeadline l d) := fun _ =>
  ⟨rfl, rfl, rfl, rfl, .refl _, rfl, rfl, fun p => by
    rwa [Station.setDeadline, holdLanes_map fun x => by split <;> rfl]⟩

theorem emptied_works : Works Station.emptied := fun _ =>
  ⟨rfl, rfl, rfl, rfl, .fewer (List.nil_sublist _) rfl (List.nil_sublist _)⟩

theorem dropHold_works (seq : Nat) : Works (Station.dropHold seq) := fun _ =>
  ⟨rfl, rfl, rfl, rfl, .fewer List.filter_sublist rfl List.filter_sublist⟩

theorem dropHeld_works (seq : Nat) : Works (Station.dropHeld seq) := fun _ =>
  ⟨rfl, rfl, rfl, rfl, .same rfl rfl rfl⟩

/-- The window of a step opens without moving an entry. -/
theorem open_place (x : Entry) : (if x.state = .queued then { x with state := .opened } else x).place = x.place := by
  split <;> rfl

theorem openSteps_works (e : Entry) : Works (Station.openSteps e) := fun st =>
  ⟨rfl, rfl, rfl, rfl, by rw [Station.openSteps, mapEntries_place _ open_place], rfl, rfl, id⟩

theorem settleHeads_works (members : List Entry) : Works (Station.settleHeads members) :=
  (without_works _).comp (mapEntries_works _ fun _ => rfl)

/-- R89: the lanes of a hold list after an item has been put in its place. -/
theorem insertHold_lanes (item : HoldItem) (holds : List HoldItem) :
    (holdLanes (insertHold item holds)).Perm (item.lane.val :: holdLanes holds) := by
  induction holds with
  | nil => exact .refl _
  | cons h rest ih =>
    unfold insertHold
    split
    · exact .refl _
    · exact (ih.cons _).trans (.swap _ _ _)

/-- R89: a hold list stays in ascending lane order, with at most one item a lane, whatever joins it. -/
theorem joinHold_rises (item : HoldItem) (holds : List HoldItem) (p : (holdLanes holds).Pairwise (· < ·)) :
    (holdLanes (joinHold item holds)).Pairwise (· < ·) := by
  unfold joinHold
  split
  · exact p
  · rename_i none
    have new : ∀ h ∈ holds, h.lane.val ≠ item.lane.val := fun h mem same =>
      none (List.any_eq_true.mpr ⟨h, mem, decide_eq_true (Fin.ext same)⟩)
    clear none
    induction holds with
    | nil => exact List.pairwise_singleton _ _
    | cons h rest ih =>
      have ⟨first, others⟩ := List.pairwise_cons.mp p
      unfold insertHold
      split
      · rename_i le
        have lt : item.lane.val < h.lane.val := Nat.lt_of_le_of_ne le (new h (.head _)).symm
        exact List.pairwise_cons.mpr ⟨fun l mem => by
          rcases List.mem_cons.mp mem with rfl | mem
          · exact lt
          · exact Nat.lt_trans lt (first l mem), p⟩
      · rename_i gt
        refine List.pairwise_cons.mpr ⟨fun l mem => ?_, ih others fun x mem => new x (.tail _ mem)⟩
        rcases List.mem_cons.mp ((insertHold_lanes item rest).mem_iff.mp mem) with rfl | mem
        · exact Nat.lt_of_not_le gt
        · exact first l mem

theorem joinHolds_works (s : State) (k : StationId) (members : List Entry) : Works (s.joinHolds k members) := fun st =>
  ⟨rfl, rfl, rfl, rfl, .refl _, rfl, rfl, fun p => by
    unfold State.joinHolds
    simp only
    induction members generalizing st with
    | nil => exact p
    | cons e rest ih =>
      refine ih { st with holds := _ } ?_
      simp only
      split
      · exact joinHold_rises _ _ p
      · exact p⟩

theorem song_moves (f : Song → Song) (s : State) : InnerMoves s (s.mapSong f) := (InnerMove.song s f).moves

theorem if_moves {c : Bool} {s t : State} (h : InnerMoves s t) : InnerMoves s (if c then t else s) := by
  split
  · exact h
  · exact .refl

theorem choose_split_moves (n : Nat) {s t : State} {c : Nat} (e : s.choose n = (c, t)) : InnerMoves s t := by
  have h := choose_moves n s
  rwa [e] at h

/-! ### The ends of a station -/

/-- Deciding an open order and updating a station record commute. -/
theorem chooseIf_mapStation (b : Bool) (k : StationId) (f : Station → Station) (s : State) :
    ((s.mapStation k f).chooseIf b).2 = ((s.chooseIf b).2).mapStation k f := by
  rw [chooseIf_snd, chooseIf_snd]
  cases b
  · rfl
  · simp only [choose_snd, if_true, State.mapStation]

theorem takePush_state (k : StationId) (point : PushPoint) (s : State) :
    (s.takePush k point).1 = s.mapStation k fun st => if st.pushPending then st.push else st := by
  by_cases h : (s.station k).pushPending = true
  · simp only [State.takePush, if_pos h]
    exact State.mapStation_congr s (if_pos h).symm
  · simp only [State.takePush, if_neg h]
    exact (State.mapStation_id s k).symm.trans (State.mapStation_congr s (if_neg h).symm)

/-- A station enters an end state: its queue is drained, then one move does the state and the pending push. -/
theorem enterEnd_moves (k : StationId) (e : EndState) (s : State) : InnerMoves s (s.enterEnd k e).1 := by
  have cues : ∀ t : State, InnerMoves t (t.endTrigger k e).1 := fun t => by
    cases e <;> first | exact raise_moves _ _ | exact .refl
  unfold State.enterEnd
  simp only [State.endPoint, takePush_state]
  refine Relation.ReflTransGen.trans ?_ (cues _)
  rw [chooseIf_mapStation, State.mapStation_mapStation]
  refine (drain_moves k s).trans ((chooseIf_moves _ _).trans (InnerMove.station _ k _ ?_).moves)
  exact .ended _ e

theorem endStation_moves (k : StationId) (e : EndState) (s : State) : InnerMoves s (s.endStation k e) :=
  (enterEnd_moves k e s).trans ((song_moves _ _).trans (offerNowOrLater_moves _ _))

theorem checkCleared_moves (k : StationId) (s : State) : InnerMoves s (s.checkCleared k) :=
  if_moves (endStation_moves _ _ _)

/-! ### Results -/

theorem applyGiven_moves (k : StationId) (kind : ResultKind) (s : State) : InnerMoves s (s.applyGiven k kind) := by
  have h : InnerMoves s (s.mapContext k fun _ => (s.applied k kind).context) :=
    (InnerMove.station s k (fun st => { st with context := (s.applied k kind).context }) (.result _ kind)).moves
  unfold State.applyGiven
  simp only
  split
  · exact h.trans (notify_moves _ _)
  · exact h

theorem giveResult_moves (k : StationId) (g : Given) {update : Station → Station} (h : Works update) (s : State) :
    InnerMoves s (s.giveResult k g update) := by
  unfold State.giveResult
  simp only
  refine if_moves ?_
  have a := ((h.moves k s).trans (countUp_moves k g.count g.countBy _)).trans (applyGiven_moves k g.kind _)
  have b := fun rs => (a.trans (raise_moves (.result k g.kind g.lanes) _)).trans (offerStreams_moves rs _)
  split
  · exact (b _).trans (endStation_moves _ _ _)
  · exact (b _).trans (checkCleared_moves _ _)

theorem addStray_moves (k : StationId) (s : State) : InnerMoves s (s.addStray k) :=
  (InnerMove.station s k (fun st => { st with context := _ }) (.stray _)).moves

/-! ### Holds -/

theorem giveHoldOk_moves (k : StationId) (seq : Nat) (s : State) : InnerMoves s (s.giveHoldOk k seq) := by
  unfold State.giveHoldOk
  split
  · exact giveResult_moves _ _ (dropHold_works _) _
  · exact .refl

theorem giveHoldLost_moves (k : StationId) (seq : Nat) (s : State) : InnerMoves s (s.giveHoldLost k seq) := by
  unfold State.giveHoldLost
  split
  · exact giveResult_moves _ _ (dropHold_works _) _
  · exact .refl

theorem okIfTailReached_moves (k : StationId) (seq : Nat) (s : State) : InnerMoves s (s.okIfTailReached k seq) :=
  if_moves (giveHoldOk_moves _ _ _)

theorem reachDeadline_moves (k : StationId) (item : HoldItem) (frame : Int) (s : State) :
    InnerMoves s (s.reachDeadline k item frame) := by
  unfold State.reachDeadline
  split
  · exact (setDeadline_works _ _).moves _ _
  · exact giveHoldLost_moves _ _ _

theorem releaseHold_moves (k : StationId) (item : HoldItem) (time : Int) (s : State) :
    InnerMoves s (s.releaseHold k item time) := by
  unfold State.releaseHold
  split
  · simp only
    split
    · exact ((setDeadline_works _ _).moves _ _).trans (reachDeadline_moves _ _ _ _)
    · exact (setDeadline_works _ _).moves _ _
  · exact .refl
  · exact .refl

theorem regrab_moves (k : StationId) (item : HoldItem) (s : State) : InnerMoves s (s.regrab k item) := by
  unfold State.regrab
  split
  · exact .refl
  · exact (setDeadline_works _ _).moves _ _
  · exact ((setDeadline_works _ _).moves _ _).trans (okIfTailReached_moves _ _ _)

theorem holdEvent_moves (k : StationId) (l : LaneId) (s : State) : InnerMoves s (s.holdEvent k l) := by
  unfold State.holdEvent
  refine if_moves ?_
  split
  · exact .refl
  · split
    · exact okIfTailReached_moves _ _ _
    · split
      · exact giveHoldOk_moves _ _ _
      · split
        · exact reachDeadline_moves _ _ _ _
        · exact .refl
    · exact .refl

theorem resumeHolds_moves (k : StationId) (s : State) : InnerMoves s (s.resumeHolds k) := by
  have h : Works fun st => { st with holds := st.holds.map fun h => { h with deadline := s.resumeDeadline k h.lane } } :=
    fun _ => ⟨rfl, rfl, rfl, rfl, .refl _, rfl, rfl, fun p => by
      rwa [holdLanes_map (f := fun h => { h with deadline := s.resumeDeadline k h.lane }) fun _ => rfl]⟩
  exact (h.moves k s).trans (foldl_moves (fun s (h : HoldItem) => okIfTailReached_moves k h.seq s) _ _)

/-! ### Heads -/

theorem gradeGroup_moves (k : StationId) (members : List Entry) (first : Entry) (grade : Grade) (offset : Int)
    (s : State) : InnerMoves s (s.gradeGroup k members first grade offset) :=
  (giveResult_moves _ _ ((settleHeads_works members).comp (joinHolds_works s k members)) _).trans
    (foldl_moves (fun s (e : Entry) => okIfTailReached_moves k e.seq s) _ _)

theorem missGroup_moves (k : StationId) (members : List Entry) (first : Entry) (s : State) :
    InnerMoves s (s.missGroup k members first) :=
  (giveResult_moves _ _ (settleHeads_works members) _).trans
    (foldl_moves (fun _ (e : Entry) => if_moves (giveHoldLost_moves k e.seq _)) _ _)

theorem examineItem_moves (left : Bool) (k : StationId) (seq : Nat) (s : State) :
    InnerMoves s (s.examineItem left k seq) := by
  have h : ∀ waits : LaneSet, Works fun st =>
      { st with heldCloses := st.heldCloses.map fun h => if h.seq = seq then { h with waits := waits } else h } :=
    fun _ _ => ⟨rfl, rfl, rfl, rfl, .same rfl rfl rfl⟩
  unfold State.examineItem
  refine if_moves ?_
  split
  · exact (dropHeld_works _).moves _ _
  · simp only
    generalize (if left = true then (0 : LaneSet) else _) = waits
    split
    · exact (dropHeld_works _).moves _ _
    · split
      · exact (h _).moves _ _
      · exact ((dropHeld_works _).moves _ _).trans (missGroup_moves _ _ _ _)

theorem examine_moves (k : StationId) (seq : Nat) (s : State) : InnerMoves s (s.examine k seq) :=
  examineItem_moves false k seq s

theorem examineAll_moves (k : StationId) (seqs : List Nat) (s : State) : InnerMoves s (s.examineAll k seqs) :=
  foldl_moves (fun s seq => examine_moves k seq s) _ _

theorem closeSteps_moves (k : StationId) (e : Entry) (s : State) : InnerMoves s (s.closeSteps k e) := by
  have h : ∀ item : HeldClose, Works fun st => { st with heldCloses := insertHeld item st.heldCloses } :=
    fun _ _ => ⟨rfl, rfl, rfl, rfl, .same rfl rfl rfl⟩
  unfold State.closeSteps
  simp only
  split
  · exact .refl
  · split
    · exact (h _).moves _ _
    · exact missGroup_moves _ _ _ _

/-! ### Mines and markers -/

theorem hitMine_moves (k : StationId) (e : Entry) (s : State) : InnerMoves s (s.hitMine k e) :=
  giveResult_moves _ _ (without_works _) _

theorem avoidMine_moves (k : StationId) (e : Entry) (s : State) : InnerMoves s (s.avoidMine k e) :=
  (((without_works _).moves k s).trans (countUp_moves _ _ _ _)).trans (checkCleared_moves _ _)

theorem openMine_moves (k : StationId) (e : Entry) (s : State) : InnerMoves s (s.openMine k e) := by
  unfold State.openMine
  split
  · exact hitMine_moves _ _ _
  · exact setState_moves _ _ _ _

theorem takeMarker_moves (k : StationId) (e : Entry) (s : State) : InnerMoves s (s.takeMarker k e) := by
  have passed : Works fun st => { st.without [e.seq] with endPassed := true } :=
    fun _ => ⟨rfl, rfl, rfl, rfl, .fewer List.filter_sublist rfl (.refl _)⟩
  unfold State.takeMarker
  split
  · simp only
    refine Relation.ReflTransGen.trans (((without_works [e.seq]).moves k s).trans ?_) (checkCleared_moves _ _)
    split
    · exact raiseNow_moves _ _
    · exact .refl
  · exact (passed.moves k s).trans (checkCleared_moves _ _)
  · exact .refl
  · exact .refl
  · exact .refl

/-! ### A change of song time -/

theorem forEntries_moves (k : StationId) {f : Entry → State → State} (h : ∀ e s, InnerMoves s (f e s)) (s : State) :
    InnerMoves s (s.forEntries k f) :=
  foldl_moves (fun s seq => by
    refine if_moves ?_
    split
    · exact h _ _
    · exact .refl) _ _

theorem openEvent_moves (k : StationId) (e : Entry) (s : State) : InnerMoves s (s.openEvent k e) := by
  unfold State.openEvent
  split
  · split
    · exact (openSteps_works _).moves _ _
    · exact if_moves (openMine_moves _ _ _)
  · exact .refl

theorem markerEvent_moves (k : StationId) (e : Entry) (s : State) : InnerMoves s (s.markerEvent k e) := by
  unfold State.markerEvent
  split
  · exact takeMarker_moves _ _ _
  · exact .refl

theorem closeEvent_moves (k : StationId) (e : Entry) (s : State) : InnerMoves s (s.closeEvent k e) := by
  unfold State.closeEvent
  split
  · split
    · exact closeSteps_moves _ _ _
    · split
      · exact avoidMine_moves _ _ _
      · exact .refl
  · exact .refl

theorem openPhase_moves (k : StationId) (s : State) : InnerMoves s (s.openPhase k) := forEntries_moves k (openEvent_moves k) s

theorem markerPhase_moves (k : StationId) (s : State) : InnerMoves s (s.markerPhase k) :=
  forEntries_moves k (markerEvent_moves k) s

theorem closePhase_moves (k : StationId) (s : State) : InnerMoves s (s.closePhase k) :=
  forEntries_moves k (closeEvent_moves k) s

theorem holdPhase_moves (k : StationId) (s : State) : InnerMoves s (s.holdPhase k) :=
  foldl_moves (fun s l => holdEvent_moves k l s) _ _

theorem songTimeChange_moves (k : StationId) (s : State) : InnerMoves s (s.songTimeChange k) :=
  ((((openPhase_moves k s).trans (markerPhase_moves k _)).trans (closePhase_moves k _)).trans
    (holdPhase_moves k _)).trans (testPush_moves k _)

/-! ### Contact events -/

theorem judge_moves (k : StationId) (e : Entry) (t : Int) (s : State) : InnerMoves s (s.judge k e t) := by
  have opens : InnerMoves s (if e.state = .queued then s.mapStation k (Station.openSteps e) else s) := by
    split
    · exact (openSteps_works _).moves _ _
    · exact .refl
  unfold State.judge
  generalize (if e.state = .queued then s.mapStation k (Station.openSteps e) else s) = t at opens ⊢
  simp only
  refine opens.trans ?_
  split
  · exact setState_moves _ _ _ _
  · exact gradeGroup_moves _ _ _ _ _ _

theorem pressSteps_moves (k : StationId) (l : LaneId) (t : Int) (s : State) : InnerMoves s (s.pressSteps k l t) := by
  unfold State.pressSteps
  simp only
  split
  · exact regrab_moves _ _ _
  · split
    · exact judge_moves _ _ _ _
    · exact addStray_moves _ _

theorem pressMines_moves (k : StationId) (l : LaneId) (t : Int) (s : State) : InnerMoves s (s.pressMines k l t) := by
  unfold State.pressMines
  refine if_moves ?_
  split
  · exact hitMine_moves _ _ _
  · exact .refl

theorem uncarry_moves (k : StationId) (l : LaneId) (s : State) : InnerMoves s (s.uncarry k l) :=
  work_moves k _ s rfl rfl rfl rfl (.same rfl rfl rfl)

theorem pressed_moves (k : StationId) (l : LaneId) (t : Int) (s : State) : InnerMoves s (s.pressed k l t) := by
  unfold State.pressed
  split
  · exact uncarry_moves _ _ _
  · exact ((pressSteps_moves _ _ _ _).trans (pressMines_moves _ _ _ _)).trans (examineAll_moves _ _ _)

theorem withdrawHold_moves (k : StationId) (l : LaneId) (s : State) : InnerMoves s (s.withdrawHold k l) := by
  unfold State.withdrawHold
  refine if_moves ?_
  split
  · split
    · exact giveHoldLost_moves _ _ _
    · exact .refl
    · exact .refl
  · exact .refl

theorem withdrawn_moves (k : StationId) (l : LaneId) (s : State) : InnerMoves s (s.withdrawn k l) := by
  unfold State.withdrawn
  simp only
  split
  · exact uncarry_moves _ _ _
  · split
    · split <;> rename_i e <;> refine (choose_split_moves _ e).trans ?_
      · exact (examineAll_moves _ _ _).trans (withdrawHold_moves _ _ _)
      · exact (withdrawHold_moves _ _ _).trans (examineAll_moves _ _ _)
    · exact (examineAll_moves _ _ _).trans (withdrawHold_moves _ _ _)

theorem released_moves (k : StationId) (l : LaneId) (t : Int) (s : State) : InnerMoves s (s.released k l t) := by
  unfold State.released
  split
  · exact releaseHold_moves _ _ _ _
  · exact .refl

theorem contactRunning_moves (e : ContactEvent) (s : State) : InnerMoves s (s.contactRunning e) := by
  unfold State.contactRunning
  split
  · exact pressed_moves _ _ _ _
  · exact released_moves _ _ _ _
  · exact withdrawn_moves _ _ _

theorem leavePressing_works (l : LaneId) : Works (Station.leavePressing l) := fun _ =>
  ⟨rfl, rfl, rfl, rfl, .same rfl rfl rfl⟩

theorem contactHalted_moves (e : ContactEvent) (s : State) : InnerMoves s (s.contactHalted e) := by
  unfold State.contactHalted
  split
  · exact (uncarry_moves _ _ _).trans ((leavePressing_works _).moves _ _)
  · exact (uncarry_moves _ _ _).trans ((leavePressing_works _).moves _ _)
  · exact .refl

theorem takeContact_moves (e : ContactEvent) (s : State) : InnerMoves s (s.takeContact e) := by
  unfold State.takeContact
  refine if_moves ?_
  split
  · exact (contactRunning_moves _ _).trans (testPush_moves _ _)
  · exact (contactHalted_moves _ _).trans (testPush_moves _ _)
  · exact .refl
  · exact .refl
  · exact .refl

theorem engineStart_moves (k : StationId) (s : State) : InnerMoves s (s.engineStart k) :=
  (work_moves k (fun st => { st with carriedIn := laneSetOf fun l => s.lanePressing k l }) s rfl rfl rfl rfl
    (.same rfl rfl rfl)).trans (songTimeChange_moves k _)

theorem resume_moves (k : StationId) (s : State) : InnerMoves s (s.resume k) := by
  unfold State.resume
  refine if_moves ?_
  simp only
  refine Relation.ReflTransGen.trans ?_ (testPush_moves k _)
  refine Relation.ReflTransGen.trans ?_ (if_moves (resumeHolds_moves k _))
  exact ((openPhase_moves k s).trans (markerPhase_moves k _)).trans
    (foldl_moves (fun s seq => examineItem_moves _ k seq s) _ _)

end Sys2Proof.Machine
end

