-- ==== Sys2Proof/Laws/CommandMoves.lean ====
section
/-! SUPPORT. What every command can do, as a chain of Moves: `exec_moves`, and `step_moves` for a whole step. -/

namespace Sys2Proof.Machine

/-! ### Moves of the whole part -/

theorem scanner_moves (f : Scanner → Scanner) (s : State) : Moves s (s.mapScanner f) := (Move.scanner s f).moves

theorem ifAll_moves {c : Bool} {s t : State} (h : Moves s t) : Moves s (if c then t else s) := by
  split
  · exact h
  · exact .refl

theorem foldlAll_moves {α : Type} {f : State → α → State} (h : ∀ s a, Moves s (f s a)) (as : List α) (s : State) :
    Moves s (as.foldl f s) := by
  induction as generalizing s with
  | nil => exact .refl
  | cons a as ih => exact (h s a).trans (ih _)

/-- Inner moves, after a change of the scanner. -/
def NearMoves (s t : State) : Prop := ∃ f, InnerMoves (s.mapScanner f) t

theorem InnerMoves.near {s t : State} (h : InnerMoves s t) : NearMoves s t := ⟨id, h⟩

theorem NearMoves.moves {s t : State} (h : NearMoves s t) : Moves s t :=
  let ⟨f, m⟩ := h
  (scanner_moves f s).trans m.moves

/-- A hand-off whose posts are collected makes its moves. -/
theorem collect_moves {f : State → State} (h : ∀ s, InnerMoves s (f s)) (s : State) : InnerMoves s (s.collect f).2 :=
  (h (s.withOutbox (some []))).withOutbox s.outbox

theorem collectNear_moves {f : State → State} (h : ∀ s, NearMoves s (f s)) (s : State) : Moves s (s.collect f).2 :=
  let ⟨g, m⟩ := h (s.withOutbox (some []))
  (scanner_moves g s).trans (m.withOutbox s.outbox).moves

theorem collectAll_moves_of_mem {α : Type} {f : α → State → State} (as : List α)
    (h : ∀ a ∈ as, ∀ s, InnerMoves s (f a s)) (s : State) : InnerMoves s (s.collectAll f as).2 := by
  induction as generalizing s with
  | nil => exact .refl
  | cons a as ih => exact (collect_moves (h a (.head _)) s).trans (ih (fun b hb => h b (.tail _ hb)) _)

theorem collectAll_moves {α : Type} {f : α → State → State} (h : ∀ a s, NearMoves s (f a s)) (as : List α) (s : State) :
    Moves s (s.collectAll f as).2 := by
  induction as generalizing s with
  | nil => exact .refl
  | cons a as ih => exact (collectNear_moves (h a) s).trans (ih _)

theorem clock_moves {f : SongClock → SongClock} (s : State) (h : (f s.clock).map = s.clock.map) :
    Moves s (s.mapClock f) := (Move.clock s f h).moves

/-- A change of the link port outside the report queue and the loss count. -/
theorem link_moves {f : LinkPort → LinkPort} (s : State) (reports : (f s.link).reports = s.link.reports)
    (loss : (f s.link).loss = s.link.loss)
    (room : (f s.link).occupancy ≤ s.link.occupancy ∨ (f s.link).occupancy ≤ 512) : InnerMoves s (s.mapLink f) :=
  (InnerMove.link s f (.other _ _ reports loss room)).moves

theorem cueMap_moves {f : CueEngine → CueEngine} (s : State) (h : CueMoves s.cue (f s.cue)) : InnerMoves s (s.mapCue f) :=
  cue_moves h s rfl

/-! ### Intake -/

theorem evalStarvation_moves (k : StationId) (s : State) : InnerMoves s (s.evalStarvation k) := by
  unfold State.evalStarvation
  refine Relation.ReflTransGen.trans ?_ (offerAny_moves _ _)
  exact work_moves k (fun st => { st with starving := _, starved := _ }) s rfl rfl rfl rfl (.same rfl rfl rfl)

theorem clearStarvation_moves (k : StationId) (s : State) : InnerMoves s (s.clearStarvation k) :=
  if_moves (work_moves k (fun st => { st with starving := _, starved := _ }) s rfl rfl rfl rfl (.same rfl rfl rfl))

/-- R47, checks 5 and 11: a record that is not refused finds room, and its tick is not before the last accepted. -/
theorem refusal_none {st : Station} {late : Bool} {n : Incoming} (h : st.refusal late n = none) :
    st.queue.length < 192 ∧ ∀ last, st.intake.lastTick = some last → last ≤ n.tick := by
  unfold Station.refusal at h
  simp only at h
  repeat' split at h
  all_goals first
    | cases h; done
    | skip
  rename_i order _ _ _ _ _ _
  refine ⟨by omega, fun last e => ?_⟩
  rw [e] at order
  simpa using order

theorem frameOrRefusal_converts {map : List Segment} {tick : Nat} {f : Int} (h : frameOrRefusal map tick = .ok f) :
    convert map tick = .frame f := by
  unfold frameOrRefusal at h
  split at h
  · cases h
  · cases h
  · rename_i e; cases h; exact e

/-- R47: the frame of a record that passes checks 1 to 3 is the conversion of its tick. -/
theorem incomingOf_converts {map : List Segment} {lanes : LaneMap} {r : NoteRec} {n : Incoming}
    (h : incomingOf map lanes r = .ok n) : convert map n.tick = .frame n.frame := by
  unfold incomingOf at h
  split at h
  · cases h
  · split at h
    · cases h
    · rename_i e
      have e := frameOrRefusal_converts e
      split at h
      case h_2 =>
        split at h
        · cases h
        · cases h; exact e
      all_goals cases h; exact e

/-- R47: what the checks of a record say of the one they let through. -/
theorem checkRecord_ok {s : State} {k : StationId} {r : NoteRec} {n : Incoming} (h : s.checkRecord k r = .ok n) :
    ((s.station k).queue.length < 192 ∧ ∀ last, (s.station k).intake.lastTick = some last → last ≤ n.tick) ∧
      convert s.clock.map n.tick = .frame n.frame := by
  unfold State.checkRecord at h
  simp only at h
  split at h
  · cases h
  · split at h
    · cases h
    · rename_i c
      split at h
      · cases h
      · rename_i e; cases h; exact ⟨refusal_none e, incomingOf_converts c⟩

theorem openAtIntake_moves (k : StationId) (seq : Nat) (s : State) : InnerMoves s (s.openAtIntake k seq) := by
  unfold State.openAtIntake
  refine if_moves ?_
  split
  · exact .refl
  · split
    · exact .refl
    · split
      · exact (openSteps_works _).moves _ _
      · split
        · exact setState_moves _ _ _ _
        · exact takeMarker_moves _ _ _

theorem acceptRecord_moves (k : StationId) (noteId : Half) (n : Incoming) (s : State)
    (room : (s.station k).queue.length < 192)
    (order : ∀ last, (s.station k).intake.lastTick = some last → last ≤ n.tick)
    (converts : convert s.clock.map n.tick = .frame n.frame) : InnerMoves s (s.acceptRecord k noteId n) := by
  have a : InnerMoves s (s.mapStation k (Station.accept s.windows noteId n)) :=
    (InnerMove.station s k _ (.accept _ _ _ _ room order converts)).moves
  unfold State.acceptRecord
  refine Relation.ReflTransGen.trans ?_ (evalStarvation_moves _ _)
  refine Relation.ReflTransGen.trans ?_ (clearStarvation_moves _ _)
  refine Relation.ReflTransGen.trans ?_ (openAtIntake_moves _ _ _)
  exact a.trans (countUp_moves _ _ _ _)

theorem takeRecords_moves (k : StationId) (baseId : Half) (records : List NoteRec) (index : Nat) (s : State) :
    InnerMoves s (s.takeRecords k baseId records index).1 := by
  induction records generalizing index s with
  | nil => exact .refl
  | cons r rest ih =>
    unfold State.takeRecords
    split
    · exact countUp_moves _ _ _ _
    · exact .refl
    · rename_i h
      have ⟨⟨room, order⟩, converts⟩ := checkRecord_ok h
      exact (acceptRecord_moves _ _ _ _ room order converts).trans (ih _ _)

theorem takeNotesPut_moves (station : Byte) (baseId : Half) (records : List NoteRec) (s : State) :
    InnerMoves s (takeNotesPut station baseId records s).1 := by
  unfold takeNotesPut
  split
  · exact .refl
  · split <;> first | exact .refl | skip
    all_goals
      split
      · exact .refl
      · simp only
        have h := (takeRecords_moves ‹StationId› baseId records 0 (s.withOutbox (some []))).trans
          (testPush_moves ‹StationId› _)
        split <;> exact closeOutbox_moves h

/-! ### The station requests -/

theorem settingsOf_works {r : StationRec} {a b : Station} (h : settingsOf r a = some b) :
    b.state = a.state ∧ b.context = a.context ∧ b.stack = a.stack ∧ b.pushPending = a.pushPending ∧
      a.GoesOn b := by
  unfold settingsOf at h
  split at h
  · split at h
    · simp only [Option.some.injEq] at h
      subst h
      exact ⟨rfl, rfl, rfl, rfl, .same rfl rfl rfl⟩
    · cases h
  · cases h

theorem takeStationSet_moves (r : StationRec) (s : State) : InnerMoves s (takeStationSet r s).1 := by
  unfold takeStationSet
  split
  · exact .refl
  · split
    · exact .refl
    · split
      · exact .refl
      · rename_i e
        have ⟨a, b, c, d, q⟩ := settingsOf_works e
        exact work_moves _ (fun _ => _) s a b c d q

theorem takeChartOpen_moves (station mode : Byte) (s : State) : InnerMoves s (takeChartOpen station mode s).1 := by
  unfold takeChartOpen
  split
  · split <;> first | exact .refl | skip
    all_goals
      rename_i h
      split
      · exact .refl
      · exact (InnerMove.station s _ _ (.opened _ _ (by rw [h]; decide))).moves
  · exact .refl

theorem takeChartClose_moves (station : Byte) (s : State) : InnerMoves s (takeChartClose station s).1 := by
  unfold takeChartClose
  split
  · exact .refl
  · split <;> first | exact .refl | skip
    all_goals
      rename_i h
      exact (InnerMove.station s _ (fun st => { st.noChart with state := .vacant }) (.closed _ (by rw [h]; decide))).moves

theorem takeStationClear_moves (station : Byte) (s : State) : InnerMoves s (takeStationClear station s).1 := by
  unfold takeStationClear
  split
  · exact .refl
  · simp only
    refine Relation.ReflTransGen.trans ?_ (offerNowOrLater_moves _ _)
    refine Relation.ReflTransGen.trans (if_moves (song_moves _ _)) (InnerMove.station _ _ _ (.cleared _)).moves

theorem takeWindowsSet_moves (r : WindowsRec) (s : State) : Moves s (takeWindowsSet r s).1 := by
  unfold takeWindowsSet
  split
  · exact .refl
  · split
    · exact .refl
    · rename_i e; exact (Move.windows s r _ e).moves

/-! ### The score requests -/

theorem takeScoringSet_moves (r : ScoringRec) (s : State) : Moves s (takeScoringSet r s).1 := by
  unfold takeScoringSet
  split
  · exact .refl
  · split
    · exact .refl
    · rename_i e; exact (Move.scoring s r _ e).moves

theorem takeLadderSet_moves (rungs : List RungRec) (s : State) : Moves s (takeLadderSet rungs s).1 := by
  unfold takeLadderSet
  simp only
  split
  · exact .refl
  · split
    · rename_i e; exact (Move.ladder s _ e).moves
    · exact .refl

theorem takeCheckpointPush_moves (station : Byte) (s : State) : InnerMoves s (takeCheckpointPush station s).1 := by
  unfold takeCheckpointPush
  split
  · exact .refl
  · simp only
    split
    · exact .refl
    · split
      · exact .refl
      · rename_i h
        split
        · exact .refl
        · rename_i room
          have free := eq_false_of_ne_true h
          have room := Nat.lt_of_not_le room
          split
          · rename_i p; exact (InnerMove.station s _ (fun st => { st with pushPending := true }) (.await _ p.1 free room)).moves
          · exact (InnerMove.station s _ _ (.pushNow _ free room)).moves

theorem takeCheckpointPop_moves (station : Byte) (s : State) : InnerMoves s (takeCheckpointPop station s).1 := by
  unfold takeCheckpointPop
  split
  · exact .refl
  · simp only
    split
    · exact .refl
    · rename_i h
      split
      · exact .refl
      · split
        · exact .refl
        · rename_i e
          exact (InnerMove.station s _ (fun st => { st with context := _, stack := _ })
            (.pop _ _ _ e (eq_false_of_ne_true h))).moves

theorem takeCheckpointDrop_moves (station : Byte) (s : State) : InnerMoves s (takeCheckpointDrop station s).1 := by
  unfold takeCheckpointDrop
  split
  · exact .refl
  · simp only
    split
    · exact .refl
    · rename_i h
      split
      · exact .refl
      · rename_i e
        exact (InnerMove.station s _ (fun st => { st with stack := _ }) (.drop _ _ _ e (eq_false_of_ne_true h))).moves

/-! ### The song clock -/

theorem appendSegments_length {origin : Int} {map map' : List Segment} {rs : List SegmentRec} {i : Nat}
    (h : appendSegments origin map rs i = .ok map') : map'.length = map.length + rs.length := by
  induction rs generalizing map i with
  | nil => simp only [appendSegments, Except.ok.injEq] at h; simp [h]
  | cons r rest ih =>
    unfold appendSegments at h
    split at h
    · cases h
    · have := ih h
      simp only [List.length_append, List.length_cons, List.length_nil] at this ⊢
      omega

theorem takeTempoClear_moves (origin : Word) (s : State) : Moves s (takeTempoClear origin s).1 := by
  unfold takeTempoClear
  simp only
  split
  · exact .refl
  · rename_i free
    simp only [Bool.or_eq_true, not_or, Bool.not_eq_true] at free
    exact (Move.tempo s (fun c => { c with map := [], origin := _ }) (Nat.zero_le _) free.2 (.inl rfl)).moves

theorem takeTempoPut_moves (segments : List SegmentRec) (s : State) : Moves s (takeTempoPut segments s).1 := by
  unfold takeTempoPut
  simp only
  split
  · exact .refl
  · rename_i free
    simp only [Bool.or_eq_true, not_or, Bool.not_eq_true] at free
    split
    · exact .refl
    · rename_i room
      split
      · exact .refl
      · rename_i e
        have h := appendSegments_length e
        refine (Move.tempo s (fun c => { c with map := _ }) ?_ free.2 (.inr ⟨_, e⟩)).moves
        simp only
        omega

/-! ### The cue requests -/

theorem takeCueStepsPut_moves (startSlot : Byte) (steps : List StepRec) (s : State) :
    InnerMoves s (takeCueStepsPut startSlot steps s).1 := by
  unfold takeCueStepsPut
  simp only
  split
  · exact .refl
  · exact cueMap_moves (f := fun e => { e with memory := _ }) s (CueMove.memory _ _).moves

theorem takeCueChannelSet_moves (r : ChannelRec) (s : State) : InnerMoves s (takeCueChannelSet r s).1 := by
  unfold takeCueChannelSet
  simp only
  split
  · dsimp only
    exact cueMap_moves s ((releaseRunning_moves _ _).trans (mapChannel_moves _ _ _ (.inr (Nat.zero_le _))))
  · exact .refl

theorem takeCueFire_moves (channel : Byte) (s : State) : InnerMoves s (takeCueFire channel s).1 := by
  unfold takeCueFire
  simp only
  split
  · exact .refl
  · split
    · exact raiseNow_moves _ _
    · exact .refl

theorem stop_waiting (ch : CueChannel) : ch.stop.waiting.length ≤ ch.waiting.length := by
  unfold CueChannel.stop
  split <;> first | exact Nat.le_refl _ | exact Nat.zero_le _

theorem takeCueStop_moves (channel : Byte) (s : State) : InnerMoves s (takeCueStop channel s).1 := by
  unfold takeCueStop
  simp only
  split
  · exact .refl
  · dsimp only
    exact cueMap_moves s ((releaseRunning_moves _ _).trans (mapChannel_moves _ _ _ (.inl (stop_waiting _))))

theorem takeLineBaseSet_moves (firstLine : Byte) (levels : List Byte) (s : State) :
    InnerMoves s (takeLineBaseSet firstLine levels s).1 := by
  unfold takeLineBaseSet
  simp only
  split
  · exact cueMap_moves s (setBases_moves _ _ _)
  · exact .refl

theorem takeCueStatus_moves (part : Byte) (s : State) : InnerMoves s (takeCueStatus part s).1 := by
  unfold takeCueStatus
  simp only
  split
  · dsimp only
    exact cueMap_moves s (CueMove.channels _ _ fun c => .inl (by simp)).moves
  · exact .refl
  · exact .refl

/-! ### Song control -/

theorem abortStations_moves (ks : List StationId) (s : State) : InnerMoves s (abortStations ks s).1 := by
  induction ks generalizing s with
  | nil => exact .refl
  | cons k rest ih =>
    unfold abortStations
    simp only
    exact (enterEnd_moves k .aborted s).trans (ih _)

theorem abortSong_moves (cause : FinishCause) (s : State) : InnerMoves s (s.abortSong cause) := by
  unfold State.abortSong
  simp only
  exact ((abortStations_moves _ _).trans (song_moves _ _)).trans (offerAny_moves _ _)

theorem finishSong_moves (s : State) : InnerMoves s s.finishSong := (song_moves _ _).trans (offer_moves _ _)

theorem takeEnd_moves (e : EndState) (s : State) : InnerMoves s (s.takeEnd e) := by
  unfold State.takeEnd
  split
  · split
    · exact abortSong_moves _ _
    · split
      · exact finishSong_moves _
      · exact .refl
  · exact .refl

theorem takePulse_moves (measure : Half) (s : State) : InnerMoves s (s.takePulse measure) := if_moves (abortSong_moves _ _)

theorem abandonNow_moves (k : StationId) (s : State) : NearMoves s (s.abandonNow k) := by
  unfold State.abandonNow State.abandonCalibration
  simp only
  split
  · exact InnerMoves.near .refl
  · exact ⟨_, offerAll_moves _ _⟩

theorem passEnds_works (start : Int) : Works (Station.passEnds start) := fun _ =>
  ⟨rfl, rfl, rfl, rfl, .fewer List.filter_sublist rfl (.refl _)⟩

theorem clearAtStart_moves (k : StationId) (s : State) : InnerMoves s (s.clearAtStart k) :=
  ((passEnds_works _).moves _ _).trans (endStation_moves _ _ _)

/-- A hand-off to a block other than the scanner. -/
def HandOff.inner : HandOff → Prop
  | .abandon _ | .scannerPulse _ => False
  | .engine _ | .enter _ | .resume _ | .starve _ | .startClear _ | .songStart | .songPulse _ | .cuePulse | .linkPulse _
  | .ended _ _ | .report _ => True

theorem takeHandOff_inner {h : HandOff} (i : h.inner) (s : State) : InnerMoves s (s.takeHandOff h) :=
  match h with
  | .engine k => songTimeChange_moves k s
  | .enter k => engineStart_moves k s
  | .resume k => resume_moves k s
  | .starve k => evalStarvation_moves k s
  | .startClear k => clearAtStart_moves k s
  | .songStart => raiseNow_moves .songStart s
  | .songPulse m => takePulse_moves m s
  | .cuePulse => raiseNow_moves .measure s
  | .linkPulse m => notify_moves (.measure m) s
  | .ended _ e => takeEnd_moves e s
  | .report r => offer_moves r s

theorem takeHandOff_near (h : HandOff) (s : State) : NearMoves s (s.takeHandOff h) :=
  match h with
  | .abandon k => abandonNow_moves k s
  | .scannerPulse m => ⟨Scanner.takePulse m, .refl⟩
  | .engine k => (takeHandOff_inner (h := .engine k) trivial s).near
  | .enter k => (takeHandOff_inner (h := .enter k) trivial s).near
  | .resume k => (takeHandOff_inner (h := .resume k) trivial s).near
  | .starve k => (takeHandOff_inner (h := .starve k) trivial s).near
  | .startClear k => (takeHandOff_inner (h := .startClear k) trivial s).near
  | .songStart => (takeHandOff_inner (h := .songStart) trivial s).near
  | .songPulse m => (takeHandOff_inner (h := .songPulse m) trivial s).near
  | .cuePulse => (takeHandOff_inner (h := .cuePulse) trivial s).near
  | .linkPulse m => (takeHandOff_inner (h := .linkPulse m) trivial s).near
  | .ended k e => (takeHandOff_inner (h := .ended k e) trivial s).near
  | .report r => (takeHandOff_inner (h := .report r) trivial s).near

theorem takeHandOffs_moves (hs : List HandOff) (s : State) : Moves s (s.takeHandOffs hs) :=
  ((shuffle_moves _ _ _).moves.trans (collectAll_moves takeHandOff_near _ _)).trans (postsDeliver_moves _ _).moves

/-- Hand-offs to blocks other than the scanner. -/
theorem takeHandOffs_inner {hs : List HandOff} (inner : ∀ h ∈ hs, h.inner) (s : State) :
    InnerMoves s (s.takeHandOffs hs) :=
  ((shuffle_moves _ _ _).trans (collectAll_moves_of_mem _
    (fun h mem s => takeHandOff_inner (inner h ((shuffle_perm _ _ _).mem_iff.mp mem)) s) _)).trans (postsDeliver_moves _ _)

/-- What is on its way leaves the lists that hold it. -/
theorem clearDue_moves (s : State) :
    InnerMoves s ((s.mapSong fun g => { g with ends := [] }).mapLink fun l => { l with held := [] }) :=
  (song_moves _ s).trans (link_moves (f := fun l => { l with held := [] }) _ rfl rfl (.inl (Nat.le_refl _)))

theorem flushWith_moves (more : List HandOff) (s : State) : Moves s (s.flushWith more) :=
  (clearDue_moves s).moves.trans (takeHandOffs_moves _ _)

theorem flush_moves (s : State) : InnerMoves s s.flush := by
  refine (clearDue_moves s).trans (takeHandOffs_inner (fun h mem => ?_) _)
  simp only [List.nil_append, List.mem_append, List.mem_map] at mem
  rcases mem with ⟨x, _, rfl⟩ | ⟨r, _, rfl⟩ <;> trivial

theorem firePulse_moves (s : State) : Moves s s.firePulse := clock_moves s rfl

theorem pickSome_moves {α : Type} (as : List α) (s : State) : InnerMoves s (s.pickSome as).2 := by
  unfold State.pickSome
  split
  · exact .refl
  · exact choose_moves _ _

theorem countedEdge_moves (s : State) : Moves s s.countedEdge := by
  have count : Moves s s.countFrame := clock_moves s rfl
  unfold State.countedEdge
  simp only
  split
  · refine Relation.ReflTransGen.trans ?_ (flushWith_moves _ _)
    refine Relation.ReflTransGen.trans ?_ (takeHandOffs_moves _ _)
    exact (count.trans (firePulse_moves _)).trans (pickSome_moves _ _).moves
  · refine Relation.ReflTransGen.trans ?_ (flush_moves _).moves
    exact count.trans (takeHandOffs_moves _ _)

theorem enterPlaying_moves (ks : List StationId) (nodup : ks.Nodup) (s : State)
    (loaded : ∀ k ∈ ks, (s.station k).state = .loaded) : InnerMoves s (s.enterPlaying ks) := by
  induction ks generalizing s with
  | nil => exact .refl
  | cons k ks ih =>
    obtain ⟨notIn, nodup⟩ := List.nodup_cons.mp nodup
    refine Relation.ReflTransGen.trans (InnerMove.station s k (fun st => { st with state := .playing })
      (.play _ _ (loaded k (.head _)) rfl rfl rfl rfl (.same rfl rfl rfl))).moves (ih nodup _ fun j mem => ?_)
    rw [State.station_mapStation_ne s (fun e => notIn (by rwa [e] at mem))]
    exact loaded j (.tail _ mem)

theorem takeStarts_moves (s : State) : Moves s s.takeStarts := by
  refine (enterPlaying_moves _ (List.Nodup.filter _ (by decide)) s fun k mem => ?_).moves.trans (takeHandOffs_moves _ _)
  have h := (List.mem_filter.mp mem).2
  simp only [State.entersAtStart, Bool.and_eq_true, decide_eq_true_eq] at h
  exact h.1.2

theorem finishIfNone_moves (s : State) : InnerMoves s s.finishIfNone := if_moves (finishSong_moves _)

theorem startPulse_moves (s : State) : Moves s s.startPulse := by
  unfold State.startPulse
  refine ifAll_moves (Relation.ReflTransGen.trans ?_ (takeHandOffs_moves _ _))
  refine (firePulse_moves s).trans (InnerMoves.moves ((pickSome_moves s.firePulse.link.held _).trans ?_))
  exact link_moves (f := fun l => { l with held := _ }) _ rfl rfl (.inl (Nat.le_refl _))

theorem startEdge_moves (s : State) : Moves s s.startEdge := by
  have clock : Moves s s.startClock := clock_moves s rfl
  unfold State.startEdge
  refine Relation.ReflTransGen.trans ?_ (finishIfNone_moves _).moves
  refine Relation.ReflTransGen.trans ?_ (flush_moves _).moves
  refine Relation.ReflTransGen.trans ?_ (startPulse_moves _)
  refine Relation.ReflTransGen.trans ?_ (takeStarts_moves _)
  refine Relation.ReflTransGen.trans ?_ (notify_moves _ _).moves
  exact (clock.trans (scanner_moves _ _)).trans (song_moves _ _).moves

theorem clockLost_moves (s : State) : InnerMoves s s.clockLost := by
  unfold State.clockLost
  split
  · exact (song_moves _ _).trans (notify_moves _ _)
  · exact .refl

theorem clockBack_moves (s : State) : InnerMoves s s.clockBack := by
  unfold State.clockBack
  refine Relation.ReflTransGen.trans ?_ (flush_moves _)
  have resumes : ∀ (ks : List StationId), ∀ h ∈ ks.map HandOff.resume, h.inner := fun ks h mem => by
    obtain ⟨k, _, rfl⟩ := List.mem_map.mp mem
    trivial
  exact ((song_moves _ _).trans (notify_moves _ _)).trans (takeHandOffs_inner (resumes _) _)

theorem haltExpire_moves (s : State) : InnerMoves s s.haltExpire := (song_moves _ _).trans (abortSong_moves _ _)

theorem takeSongArm_moves (mask : Byte) (startFrame : Word) (s : State) : InnerMoves s (takeSongArm mask startFrame s).1 := by
  unfold takeSongArm
  simp only
  split
  · exact .refl
  · split
    · exact .refl
    · split
      · exact .refl
      · exact song_moves _ _

theorem latchStart_moves (s : State) : InnerMoves s s.latchStart := by
  unfold State.latchStart
  split
  · exact song_moves _ _
  · exact .refl

theorem takeSongGo_moves (s : State) : InnerMoves s (takeSongGo s).1 := by
  unfold takeSongGo
  simp only
  split
  · exact latchStart_moves _
  · exact .refl

theorem takeSongAbort_moves (conditions : Byte) (n : Half) (s : State) : InnerMoves s (takeSongAbort conditions n s).1 := by
  unfold takeSongAbort
  simp only
  split
  · exact .refl
  · split <;> first | exact .refl | skip
    · split
      · exact song_moves _ _
      · dsimp only
        exact song_moves _ _
    · split
      · exact abortSong_moves _ _
      · dsimp only
        exact song_moves _ _
    · split
      · exact abortSong_moves _ _
      · dsimp only
        exact song_moves _ _

/-! ### The scanner -/

theorem takeScanSet_moves (period : Half) (s : State) : Moves s (takeScanSet period s).1 := by
  unfold takeScanSet
  simp only
  split
  · dsimp only
    exact scanner_moves _ _
  · exact .refl

theorem takePanelSet_moves (r : PanelRec) (s : State) : Moves s (takePanelSet r s).1 := by
  unfold takePanelSet
  simp only
  split
  · exact .refl
  · split
    · exact scanner_moves _ _
    · exact .refl

theorem takeCalibrate_moves (station : Byte) (s : State) : Moves s (takeCalibrate station s).1 := by
  unfold takeCalibrate
  simp only
  split
  · exact .refl
  · split
    · exact .refl
    · split
      · exact .refl
      · exact scanner_moves _ _

theorem takeRoundItem_near (i : RoundItem) (s : State) : NearMoves s (s.takeRoundItem i) := by
  unfold State.takeRoundItem
  split
  · exact ⟨_, takeContact_moves _ _⟩
  · exact (notify_moves _ _).near
  · exact (notify_moves _ _).near

theorem roundStreams_moves (taken : List TakenItem) (ks : List StationId) (s : State) :
    InnerMoves s (roundStreams taken ks s).2 := by
  induction ks generalizing s with
  | nil => exact .refl
  | cons k rest ih => exact (weave_moves _ _ s).trans (ih _)

theorem deliverRound_moves (taken : List TakenItem) (s : State) : InnerMoves s (s.deliverRound taken) :=
  (roundStreams_moves taken allStations s).trans (postsDeliver_moves _ _)

theorem chooseIf_split_moves {b c : Bool} {s t : State} (e : s.chooseIf b = (c, t)) : InnerMoves s t := by
  have h := chooseIf_moves b s
  rwa [e] at h

theorem takeRoundItems_moves (items : List RoundItem) (taken : List TakenItem) (s : State) :
    Moves s (s.takeRoundItems items taken) := by
  induction items generalizing taken s with
  | nil => exact (deliverRound_moves _ _).moves
  | cons i rest ih =>
    unfold State.takeRoundItems
    split <;> rename_i e <;> refine (chooseIf_split_moves e).moves.trans ?_
    · refine (InnerMoves.moves ((deliverRound_moves taken _).trans (flush_moves _))).trans ?_
      exact (collectNear_moves (takeRoundItem_near i) _).trans (ih _ _)
    · exact (collectNear_moves (takeRoundItem_near i) _).trans (ih _ _)

theorem stationItems_moves (o : RoundOutcome) (ks : List StationId) (s : State) :
    InnerMoves s (o.stationItems ks s).2 := by
  induction ks generalizing s with
  | nil => exact .refl
  | cons k rest ih => exact (weave_moves _ _ s).trans (ih _)

theorem roundEnd_moves (stamp : Int) (data : RoundData) (s : State) : Moves s (s.roundEnd stamp data) := by
  unfold State.roundEnd
  simp only
  refine Relation.ReflTransGen.trans ?_ (takeRoundItems_moves _ _ _)
  refine Relation.ReflTransGen.trans ?_ (weave_moves _ _ _).moves
  refine Relation.ReflTransGen.trans ?_ (stationItems_moves _ _ _).moves
  exact (InnerMoves.moves ((chooseIf_moves _ s).trans (chooseIf_moves _ _))).trans (scanner_moves (fun _ => _) _)

/-! ### The link port -/

theorem endFrame_occupancy (truncated : Bool) (l : LinkPort) : (l.endFrame truncated).occupancy = l.occupancy := by
  simp [LinkPort.endFrame, LinkPort.occupancy]

theorem takeStored_occupancy (now : Nat) (b : Byte) (l : LinkPort) :
    (l.takeStored now b).occupancy ≤ l.occupancy + 1 := by
  unfold LinkPort.takeStored
  split <;> first | rw [endFrame_occupancy] | skip
  all_goals
    simp only [LinkPort.store, LinkPort.occupancy, List.length_append, List.length_cons, List.length_nil]
    omega

theorem takeStored_reports (now : Nat) (b : Byte) (l : LinkPort) :
    (l.takeStored now b).reports = l.reports ∧ (l.takeStored now b).loss = l.loss := by
  unfold LinkPort.takeStored
  split <;> exact ⟨rfl, rfl⟩

theorem receive_link (now : Nat) (b : Byte) (l : LinkPort) :
    (l.receive now b).reports = l.reports ∧ (l.receive now b).loss = l.loss ∧
      ((l.receive now b).occupancy ≤ l.occupancy ∨ (l.receive now b).occupancy ≤ 512) := by
  unfold LinkPort.receive
  split
  · exact ⟨rfl, rfl, .inl (Nat.le_refl _)⟩
  · exact ⟨rfl, rfl, .inl (by simp [LinkPort.occupancy])⟩
  · split
    · rename_i h
      have a := takeStored_occupancy now b l
      have ⟨r, d⟩ := takeStored_reports now b l
      exact ⟨r, d, .inr (by unfold inboundSize at h; omega)⟩
    · exact ⟨rfl, rfl, .inl (Nat.le_refl _)⟩

theorem receiveByte_moves (now : Nat) (b : Byte) (framingError : Bool) (s : State) :
    InnerMoves s (s.mapLink (LinkPort.receiveByte now b framingError)) := by
  have h : (s.link.receiveByte now b framingError).reports = s.link.reports ∧
      (s.link.receiveByte now b framingError).loss = s.link.loss ∧
      ((s.link.receiveByte now b framingError).occupancy ≤ s.link.occupancy ∨
        (s.link.receiveByte now b framingError).occupancy ≤ 512) := by
    unfold LinkPort.receiveByte
    split
    · split
      · exact ⟨rfl, rfl, .inl (Nat.le_refl _)⟩
      · exact receive_link now b s.link
    · exact ⟨rfl, rfl, .inl (Nat.le_refl _)⟩
    · exact ⟨rfl, rfl, .inl (Nat.le_refl _)⟩
  exact link_moves s h.1 h.2.1 h.2.2

theorem receiveBytes_moves (now : Nat) (bytes : List Byte) (s : State) :
    InnerMoves s (s.mapLink (LinkPort.receiveBytes now bytes)) := by
  induction bytes generalizing s with
  | nil => exact .refl
  | cons b rest ih => exact (receiveByte_moves now b false s).trans (ih _)

theorem putReply_moves (r : Reply) (s : State) : InnerMoves s (s.mapLink (LinkPort.putReply r)) :=
  link_moves s rfl rfl (.inl (Nat.le_refl _))

theorem finishReply_moves (idleBefore : Bool) (r : Reply) (s : State) : InnerMoves s (s.finishReply idleBefore r) := by
  unfold State.finishReply
  simp only
  refine (flush_moves s).trans ?_
  split
  · split <;> rename_i e <;> refine (choose_split_moves _ e).trans ?_
    · exact (putReply_moves r _).trans (settle_moves _)
    · exact ((beginReport_moves _).trans (putReply_moves r _)).trans (settle_moves _)
  · exact (putReply_moves r _).trans (settle_moves _)

theorem answer_moves {take : State → State × Reply} (h : ∀ s, Moves s (take s).1) (s : State) :
    Moves s (s.answer take) := (h s).trans (finishReply_moves _ _ _).moves

theorem submit_moves (i : Instr) {take : State → State × Reply} (h : ∀ s, Moves s (take s).1) (s : State) :
    Moves s (s.submit i take) := by
  unfold State.submit
  split
  · refine answer_moves (fun s => ?_) s
    unfold submitNow
    split
    · exact h s
    · exact .refl
  · exact (receiveBytes_moves _ _ _).moves

theorem finish_moves (s : State) : InnerMoves s s.finish := (flush_moves s).trans (settle_moves _)

theorem transmitDone_moves (s : State) : InnerMoves s s.transmitDone := by
  unfold State.transmitDone
  split
  · exact .refl
  · exact Relation.ReflTransGen.trans (link_moves s rfl rfl (.inl (Nat.le_refl _))) (settle_moves _)
  · exact Relation.ReflTransGen.trans (link_moves s rfl rfl (.inl (Nat.le_refl _))) (settle_moves _)
  · exact Relation.ReflTransGen.trans (link_moves s rfl rfl (.inl (Nat.le_refl _))) (settle_moves _)

theorem dropFrame_occupancy (l : LinkPort) : l.dropFrame.occupancy ≤ l.occupancy := by
  unfold LinkPort.dropFrame LinkPort.occupancy
  cases l.ended with
  | nil => exact Nat.le_refl _
  | cons f rest => simp only [List.tail_cons, List.map_cons, List.sum_cons]; omega

theorem takeBreak_moves (s : State) : InnerMoves s (s.mapLink LinkPort.takeBreak) := by
  have h : s.link.takeBreak.reports = s.link.reports ∧ s.link.takeBreak.loss = s.link.loss ∧
      (s.link.takeBreak.occupancy ≤ s.link.occupancy ∨ s.link.takeBreak.occupancy ≤ 512) := by
    unfold LinkPort.takeBreak
    split
    · exact ⟨rfl, rfl, .inl (Nat.le_refl _)⟩
    · exact ⟨rfl, rfl, .inr (by simp [LinkPort.occupancy])⟩
    · exact ⟨rfl, rfl, .inr (by simp [LinkPort.occupancy])⟩
  exact link_moves s h.1 h.2.1 h.2.2

theorem takeNoticeMaskSet_moves (mask : BitVec 24) (s : State) : InnerMoves s (takeNoticeMaskSet mask s).1 := by
  unfold takeNoticeMaskSet
  simp only
  split
  · exact .refl
  · exact link_moves (f := fun l => { l with mask := mask }) s rfl rfl (.inl (Nat.le_refl _))

/-! ### Requests that read -/

theorem takePanelRead_state (station : Byte) (s : State) : (takePanelRead station s).1 = s := by
  unfold takePanelRead; simp only; split <;> rfl

theorem takeStationStatus_state (station : Byte) (s : State) : (takeStationStatus station s).1 = s := by
  unfold takeStationStatus; simp only; split <;> rfl

theorem takeTallyRead_state (station : Byte) (s : State) : (takeTallyRead station s).1 = s := by
  unfold takeTallyRead; simp only; split <;> rfl

theorem takeCheckpointRead_state (station : Byte) (s : State) : (takeCheckpointRead station s).1 = s := by
  unfold takeCheckpointRead
  simp only
  split
  · rfl
  · split <;> rfl

theorem same_moves {s t : State} (h : t = s) : Moves s t := by rw [h]

/-! ### Every command -/

theorem handRequest_moves (i : Instr) (s : State) : Moves s (handRequest i s).1 :=
  match i with
  | .noticeMaskSet mask => (takeNoticeMaskSet_moves mask s).moves
  | .scanSet period => takeScanSet_moves period s
  | .panelSet r => takePanelSet_moves r s
  | .calibrate k => takeCalibrate_moves k s
  | .tempoClear o => takeTempoClear_moves o s
  | .tempoPut x => takeTempoPut_moves x s
  | .windowsSet r => takeWindowsSet_moves r s
  | .scoringSet r => takeScoringSet_moves r s
  | .ladderSet x => takeLadderSet_moves x s
  | .stationSet r => (takeStationSet_moves r s).moves
  | .chartOpen k m => (takeChartOpen_moves k m s).moves
  | .notesPut k b x => (takeNotesPut_moves k b x s).moves
  | .chartClose k => (takeChartClose_moves k s).moves
  | .stationClear k => (takeStationClear_moves k s).moves
  | .songArm m f => (takeSongArm_moves m f s).moves
  | .songGo => (takeSongGo_moves s).moves
  | .songAbort c n => (takeSongAbort_moves c n s).moves
  | .checkpointPush k => (takeCheckpointPush_moves k s).moves
  | .checkpointPop k => (takeCheckpointPop_moves k s).moves
  | .checkpointDrop k => (takeCheckpointDrop_moves k s).moves
  | .cueStepsPut f x => (takeCueStepsPut_moves f x s).moves
  | .cueChannelSet r => (takeCueChannelSet_moves r s).moves
  | .cueFire c => (takeCueFire_moves c s).moves
  | .cueStop c => (takeCueStop_moves c s).moves
  | .lineBaseSet f x => (takeLineBaseSet_moves f x s).moves
  | .cueStatus q => (takeCueStatus_moves q s).moves
  | .panelRead k => same_moves (takePanelRead_state k s)
  | .stationStatus k => same_moves (takeStationStatus_state k s)
  | .tallyRead k => same_moves (takeTallyRead_state k s)
  | .checkpointRead k => same_moves (takeCheckpointRead_state k s)
  | .identify | .systemReset | .songStatus => .refl
  | .pinReset _ | .startFallingEdge | .wclkEdge | .watchTimerExpiry | .haltTimerExpiry | .scanRoundStart
  | .scanRoundEnd _ | .stepExpiry _ | .rxdByte _ _ | .gapTimerExpiry | .linkBreak | .frameTaken | .transmitComplete
  | .systemResetEvent | .rxdReturnsHigh => .refl

theorem handFrame_moves (f : InFrame) (s : State) : Moves s (handFrame f s).1 := by
  unfold handFrame
  split
  · exact .refl
  · exact handRequest_moves _ _

theorem edgeBySong_moves (wasAbsent : Bool) (s : State) : Moves s (s.edgeBySong wasAbsent) := by
  unfold State.edgeBySong
  split
  · exact countedEdge_moves _
  · exact ifAll_moves (clockBack_moves _).moves
  · exact ifAll_moves (startEdge_moves _)
  · exact .refl
  · exact .refl

theorem advanceTo_moves (t : Nat) (s : State) : Moves s (s.advanceTo t) := (Move.time s _).moves

/-- The state that an outcome goes on to can be reached from s by moves. -/
def GoesBy (s : State) (o : Host.Outcome State Fault Refusal) : Prop := ∀ t, o = .next t → Moves s t

theorem goesBy_next {s t : State} (h : Moves s t) : GoesBy s (.next t) := fun u e => by
  cases e
  exact h

theorem execWclkEdge_moves (s : State) : GoesBy s (execWclkEdge s) := by
  have watch : Moves s s.watchEdge := clock_moves s rfl
  exact goesBy_next ((watch.trans (edgeBySong_moves _ _)).trans (settle_moves _).moves)

theorem execWatchTimerExpiry_moves (s : State) : GoesBy s (execWatchTimerExpiry s) := by
  unfold execWatchTimerExpiry
  split
  · refine goesBy_next (Relation.ReflTransGen.trans ?_ (settle_moves _).moves)
    refine Relation.ReflTransGen.trans ?_ (clockLost_moves _).moves
    exact (advanceTo_moves _ _).trans (clock_moves _ rfl)
  · exact goesBy_next .refl

theorem execHaltTimerExpiry_moves (s : State) : GoesBy s (execHaltTimerExpiry s) := by
  unfold execHaltTimerExpiry
  split
  · exact goesBy_next (((advanceTo_moves _ _).trans (haltExpire_moves _).moves).trans (finish_moves _).moves)
  · exact goesBy_next .refl

theorem execScanRoundStart_moves (s : State) : GoesBy s (execScanRoundStart s) := by
  unfold execScanRoundStart
  split
  · exact goesBy_next ((advanceTo_moves _ _).trans (scanner_moves _ _))
  · exact goesBy_next .refl

theorem execScanRoundEnd_moves (data : RoundData) (s : State) : GoesBy s (execScanRoundEnd data s) := by
  unfold execScanRoundEnd
  split
  · exact goesBy_next .refl
  · split
    · exact goesBy_next (scanner_moves _ _)
    · exact goesBy_next ((roundEnd_moves _ _ _).trans (finish_moves _).moves)

theorem execStepExpiry_moves (c : ChannelId) (s : State) : GoesBy s (execStepExpiry c s) := by
  unfold execStepExpiry
  split
  · exact goesBy_next (((advanceTo_moves _ _).trans (expireStep_moves _ _ _).moves).trans (settle_moves _).moves)
  · exact goesBy_next .refl

theorem execGapTimerExpiry_moves (s : State) : GoesBy s (execGapTimerExpiry s) := by
  unfold execGapTimerExpiry
  split
  · exact goesBy_next ((advanceTo_moves _ _).trans
      (link_moves _ rfl rfl (.inl (Nat.le_of_eq (endFrame_occupancy true _)))).moves)
  · exact goesBy_next .refl
  · exact goesBy_next .refl

theorem execFrameTaken_moves (s : State) : GoesBy s (execFrameTaken s) := by
  unfold execFrameTaken
  split
  · exact goesBy_next (Relation.ReflTransGen.trans (link_moves s rfl rfl (.inl (dropFrame_occupancy _))).moves
      (answer_moves (handFrame_moves _) _))
  · exact goesBy_next .refl

theorem execSystemResetEvent_moves (s : State) : GoesBy s (execSystemResetEvent s) := by
  unfold execSystemResetEvent
  split
  · exact goesBy_next ((Move.systemReset s).moves.trans (settle_moves _).moves)
  · exact goesBy_next .refl

/-- Every command that goes on does so by moves. -/
theorem exec_moves (c : Instr) (s t : State) (h : exec c s = .next t) : Moves s t :=
  match c with
  | .pinReset straps => goesBy_next (Move.pinReset s straps).moves t h
  | .startFallingEdge => goesBy_next (latchStart_moves s).moves t h
  | .wclkEdge => execWclkEdge_moves s t h
  | .watchTimerExpiry => execWatchTimerExpiry_moves s t h
  | .haltTimerExpiry => execHaltTimerExpiry_moves s t h
  | .scanRoundStart => execScanRoundStart_moves s t h
  | .scanRoundEnd data => execScanRoundEnd_moves data s t h
  | .stepExpiry channel => execStepExpiry_moves channel s t h
  | .rxdByte value framingError => goesBy_next (receiveByte_moves _ value framingError s).moves t h
  | .gapTimerExpiry => execGapTimerExpiry_moves s t h
  | .linkBreak => goesBy_next (InnerMoves.moves ((takeBreak_moves s).trans (settle_moves _))) t h
  | .frameTaken => execFrameTaken_moves s t h
  | .transmitComplete => goesBy_next (transmitDone_moves s).moves t h
  | .systemResetEvent => execSystemResetEvent_moves s t h
  | .rxdReturnsHigh =>
    goesBy_next (link_moves (f := LinkPort.returnHigh s.refTime) s rfl rfl (.inl (Nat.le_refl _))).moves t h
  | .identify => goesBy_next (submit_moves .identify (handRequest_moves .identify) s) t h
  | .systemReset => goesBy_next (submit_moves (.systemReset) (handRequest_moves (.systemReset)) s) t h
  | .noticeMaskSet mask => goesBy_next (submit_moves (.noticeMaskSet mask) (handRequest_moves (.noticeMaskSet mask)) s) t h
  | .scanSet period => goesBy_next (submit_moves (.scanSet period) (handRequest_moves (.scanSet period)) s) t h
  | .panelSet r => goesBy_next (submit_moves (.panelSet r) (handRequest_moves (.panelSet r)) s) t h
  | .calibrate k => goesBy_next (submit_moves (.calibrate k) (handRequest_moves (.calibrate k)) s) t h
  | .panelRead k => goesBy_next (submit_moves (.panelRead k) (handRequest_moves (.panelRead k)) s) t h
  | .tempoClear o => goesBy_next (submit_moves (.tempoClear o) (handRequest_moves (.tempoClear o)) s) t h
  | .tempoPut x => goesBy_next (submit_moves (.tempoPut x) (handRequest_moves (.tempoPut x)) s) t h
  | .windowsSet r => goesBy_next (submit_moves (.windowsSet r) (handRequest_moves (.windowsSet r)) s) t h
  | .scoringSet r => goesBy_next (submit_moves (.scoringSet r) (handRequest_moves (.scoringSet r)) s) t h
  | .ladderSet x => goesBy_next (submit_moves (.ladderSet x) (handRequest_moves (.ladderSet x)) s) t h
  | .stationSet r => goesBy_next (submit_moves (.stationSet r) (handRequest_moves (.stationSet r)) s) t h
  | .chartOpen k m => goesBy_next (submit_moves (.chartOpen k m) (handRequest_moves (.chartOpen k m)) s) t h
  | .notesPut k b x => goesBy_next (submit_moves (.notesPut k b x) (handRequest_moves (.notesPut k b x)) s) t h
  | .chartClose k => goesBy_next (submit_moves (.chartClose k) (handRequest_moves (.chartClose k)) s) t h
  | .stationStatus k => goesBy_next (submit_moves (.stationStatus k) (handRequest_moves (.stationStatus k)) s) t h
  | .tallyRead k => goesBy_next (submit_moves (.tallyRead k) (handRequest_moves (.tallyRead k)) s) t h
  | .stationClear k => goesBy_next (submit_moves (.stationClear k) (handRequest_moves (.stationClear k)) s) t h
  | .songArm m f => goesBy_next (submit_moves (.songArm m f) (handRequest_moves (.songArm m f)) s) t h
  | .songGo => goesBy_next (submit_moves (.songGo) (handRequest_moves (.songGo)) s) t h
  | .songAbort c n => goesBy_next (submit_moves (.songAbort c n) (handRequest_moves (.songAbort c n)) s) t h
  | .songStatus => goesBy_next (submit_moves (.songStatus) (handRequest_moves (.songStatus)) s) t h
  | .checkpointPush k => goesBy_next (submit_moves (.checkpointPush k) (handRequest_moves (.checkpointPush k)) s) t h
  | .checkpointPop k => goesBy_next (submit_moves (.checkpointPop k) (handRequest_moves (.checkpointPop k)) s) t h
  | .checkpointDrop k => goesBy_next (submit_moves (.checkpointDrop k) (handRequest_moves (.checkpointDrop k)) s) t h
  | .checkpointRead k => goesBy_next (submit_moves (.checkpointRead k) (handRequest_moves (.checkpointRead k)) s) t h
  | .cueStepsPut f x => goesBy_next (submit_moves (.cueStepsPut f x) (handRequest_moves (.cueStepsPut f x)) s) t h
  | .cueChannelSet r => goesBy_next (submit_moves (.cueChannelSet r) (handRequest_moves (.cueChannelSet r)) s) t h
  | .cueFire c => goesBy_next (submit_moves (.cueFire c) (handRequest_moves (.cueFire c)) s) t h
  | .cueStop c => goesBy_next (submit_moves (.cueStop c) (handRequest_moves (.cueStop c)) s) t h
  | .lineBaseSet f x => goesBy_next (submit_moves (.lineBaseSet f x) (handRequest_moves (.lineBaseSet f x)) s) t h
  | .cueStatus q => goesBy_next (submit_moves (.cueStatus q) (handRequest_moves (.cueStatus q)) s) t h

/-- A step is a chain of moves of the state without the command it takes, or the passing of time. -/
theorem step_moves (s t : State) (h : step s = .next t) : Moves { s with pending := s.pending.tail } t := by
  unfold step at h
  split at h
  · rename_i e; rw [e]; exact exec_moves _ _ _ h
  · rename_i e
    cases h
    have same : ({ s with pending := s.pending.tail } : State) = s := by
      cases s
      simp only at e
      simp only [e, List.tail_nil]
    rw [same]
    exact (Move.time s _).moves

end Sys2Proof.Machine
end

