-- ==== Sys2Proof/Laws/Link.lean ====
section
/-! SUPPORT. The laws of the link port's shared operations: what is on its way, the reply of a request, and a request sent
as a command. -/

namespace Sys2Proof.Machine

/-- With nothing on its way there is nothing to take. -/
theorem flush_quiescent {s : State} (h : s.quiescent) : s.flush = s := by
  obtain ⟨ends, held, _⟩ := h
  rcases s with ⟨pending, refTime, clock, scanner, stations, windows, scoring, ladder, song, cue, link, outbox, choices,
    count⟩
  rcases song with ⟨state, armed, startFrame, latch, abortSet, abortMeasure, cause, halt, ends'⟩
  rcases link with ⟨rate, rxd, framer, current, gap, ended, slot, tx, reports, loss, mask, resetDue, held'⟩
  simp only at ends held
  subst ends held
  rfl

theorem finish_quiescent {s : State} (h : s.quiescent) : s.finish = s.settle := by
  rw [State.finish, flush_quiescent h]

/-- A reply where the event made no report ready at an idle transmitter: it enters the slot. -/
theorem finishReply_quiescent {s : State} (h : s.quiescent) {idleBefore : Bool}
    (calm : (idleBefore && s.link.reportReady) = false) (r : Reply) : s.finishReply idleBefore r = s.replied r := by
  unfold State.finishReply
  simp only [flush_quiescent h, calm, Bool.false_eq_true, if_false]
  rfl

/-- A request whose taking offers no report and begins no transmission is answered by its reply alone. -/
theorem answer_eq {take : State → State × Reply} {s t : State} {r : Reply} (taken : take s = (t, r)) (h : t.quiescent)
    (reports : t.link.reports = s.link.reports) (loss : t.link.loss = s.link.loss) : s.answer take = t.replied r := by
  unfold State.answer
  simp only [taken]
  refine finishReply_quiescent h ?_ r
  simp only [LinkPort.txIdle, LinkPort.reportReady, reports, loss]
  cases s.link.reports.isEmpty <;> by_cases z : s.link.loss = 0 <;> simp [z]

/-- A well-formed request sent while the link port is open is answered. -/
theorem submit_open {i : Instr} {take : State → State × Reply} {s : State} (wf : i.wf = true)
    (h : s.link.isOpen = true) : s.submit i take = s.answer take := by
  have now : submitNow i take = take := by funext s; simp [submitNow, wf]
  simp only [State.submit, h, if_true, now]

/-- A request sent while the link port is closed arrives on RXD as the bytes of its link frame. -/
theorem submit_closed {i : Instr} {take : State → State × Reply} {s : State} (h : s.link.isOpen = false) :
    s.submit i take = s.mapLink (LinkPort.receiveBytes s.refTime i.frame) := by
  simp [State.submit, h]

/-- A request that offers nothing: its taking and its reply, in one equation. -/
theorem submit_eq {i : Instr} {take : State → State × Reply} {s t : State} {r : Reply} (wf : i.wf = true)
    (h : s.ready) (taken : take s = (t, r)) (ends : t.song.ends = s.song.ends) (held : t.link.held = s.link.held)
    (outbox : t.outbox = s.outbox) (reports : t.link.reports = s.link.reports) (loss : t.link.loss = s.link.loss) :
    s.submit i take = t.replied r := by
  rw [submit_open wf h.1]
  exact answer_eq taken ⟨ends.trans h.2.1, held.trans h.2.2.1, outbox.trans h.2.2.2⟩ reports loss

/-- What a reply does in an open link port (R178, R179). -/
theorem replied_link {s : State} (h : s.link.isOpen = true) (r : Reply) :
    s.replied r = s.mapLink fun l => { l with slot := some r, tx := if l.tx.isNone then some (.reply r) else l.tx } := by
  simp only [LinkPort.isOpen, Bool.and_eq_true, decide_eq_true_eq, Bool.not_eq_true'] at h
  unfold State.replied State.settle
  rw [State.mapLink_mapLink]
  rcases s with ⟨pending, refTime, clock, scanner, stations, windows, scoring, ladder, song, cue, link, outbox, choices,
    count⟩
  rcases link with ⟨rate, rxd, framer, current, gap, ended, slot, tx, reports, loss, mask, resetDue, held'⟩
  obtain ⟨_, reset⟩ := h
  simp only at reset
  subst reset
  cases tx <;> rfl

end Sys2Proof.Machine
end

