-- ==== Sys2Proof/Laws/Orders.lean ====
section
/-! SUPPORT. What an open order can be: the draws of `shuffle`, `weave` and `pickSome` answer the members they are given,
in some order, and change the fields of open choices alone; and what is done with the posts of a hand-off. -/

namespace Sys2Proof.Machine

/-- A drawn number lies below its bound. -/
theorem choose_lt {n : Nat} (h : 0 < n) (s : State) : (s.choose n).1 < n := by
  unfold State.choose
  split <;> exact Nat.mod_lt _ h

/-- The streams that still hold something hold all members. -/
theorem liveStreams_flatten {α : Type} (ss : List (List α)) : (liveStreams ss).flatten = ss.flatten := by
  induction ss with
  | nil => rfl
  | cons l ss ih =>
    cases l with
    | nil => simpa [liveStreams] using ih
    | cons a l => simpa [liveStreams] using ih

/-- A stream holds nothing, or is among the streams that still hold something. -/
theorem nil_or_mem_liveStreams {α : Type} {ss : List (List α)} {l : List α} (h : l ∈ ss) :
    l = [] ∨ l ∈ liveStreams ss := by
  cases l with
  | nil => exact .inl rfl
  | cons a l => exact .inr (List.mem_filter.mpr ⟨h, rfl⟩)

/-- Taking the first member of one stream and leaving the rest. -/
theorem modify_tail_perm {α : Type} (ss : List (List α)) (c : Nat) (h : c < ss.length) :
    ((ss.getD c []).take 1 ++ (ss.modify c List.tail).flatten).Perm ss.flatten := by
  induction ss generalizing c with
  | nil => simp at h
  | cons l ss ih =>
    cases c with
    | zero => cases l <;> simp
    | succ c =>
      simp only [List.getD_cons_succ, List.modify_succ_cons, List.flatten_cons]
      refine List.perm_append_comm_assoc _ _ _ |>.trans ((ih c (by simpa using h)).append_left l)

/-- Several streams woven into one list: their members, each stream in its own order. -/
theorem weave_spec {α : Type} (n : Nat) (ss : List (List α)) (s : State) (h : ss.flatten.length ≤ n) :
    (weave n ss s).1.Perm ss.flatten ∧ ∀ l ∈ ss, l.Sublist (weave n ss s).1 := by
  induction n generalizing ss s with
  | zero =>
    have e : ss.flatten = [] := List.length_eq_zero_iff.mp (Nat.le_zero.mp h)
    refine ⟨by rw [e]; exact .refl _, fun l hl => ?_⟩
    rw [List.flatten_eq_nil_iff.mp e l hl]
    exact List.nil_sublist _
  | succ n ih =>
    rw [← liveStreams_flatten ss] at h ⊢
    have key : ∀ {as : List α}, (∀ l ∈ liveStreams ss, l.Sublist as) → ∀ l ∈ ss, l.Sublist as := by
      intro as hs l hl
      rcases nil_or_mem_liveStreams hl with e | e
      · rw [e]; exact List.nil_sublist _
      · exact hs l e
    have live : ∀ l ∈ liveStreams ss, l ≠ [] := by
      intro l hl e
      subst e
      simp [liveStreams] at hl
    unfold weave
    revert h key live
    generalize liveStreams ss = ls
    intro h key live
    match ls with
    | [] => exact ⟨.refl _, key (by simp)⟩
    | [l] => exact ⟨by simp, key (by simp)⟩
    | l :: m :: more =>
      simp only
      have lt := choose_lt (n := (m :: more).length + 1) (by omega) s
      generalize s.choose ((m :: more).length + 1) = x at lt ⊢
      obtain ⟨c, s'⟩ := x
      simp only at lt ⊢
      have lt' : c < (l :: m :: more).length := lt
      have p := modify_tail_perm (l :: m :: more) c lt'
      have hne : (l :: m :: more).getD c [] ≠ [] := by
        rw [List.getD_eq_getElem _ _ lt']
        exact live _ (List.getElem_mem _)
      have e : (l :: m :: more).getD c l = (l :: m :: more).getD c [] := by
        rw [List.getD_eq_getElem _ _ lt', List.getD_eq_getElem _ _ lt']
      rw [e]
      have len : ((l :: m :: more).modify c List.tail).flatten.length ≤ n := by
        have := p.length_eq
        rw [List.length_append] at this
        have one : (((l :: m :: more).getD c []).take 1).length = 1 := by
          rw [List.length_take]
          have := List.length_pos_iff.mpr hne
          omega
        omega
      obtain ⟨hp, hs⟩ := ih _ s' len
      refine ⟨(hp.append_left _).trans p, key ?_⟩
      intro x hx
      obtain ⟨i, hi, rfl⟩ := List.mem_iff_getElem.mp hx
      by_cases hc : i = c
      · subst hc
        have : ((l :: m :: more)[i]).tail ∈ (l :: m :: more).modify i List.tail := by
          refine List.mem_iff_getElem.mpr ⟨i, by simpa using hi, ?_⟩
          simp
        have sub := hs _ this
        rw [List.getD_eq_getElem _ _ lt']
        have split : ((l :: m :: more)[i]).take 1 ++ ((l :: m :: more)[i]).tail = (l :: m :: more)[i] := by
          rw [← List.drop_one]; exact List.take_append_drop 1 _
        conv => lhs; rw [← split]
        exact List.Sublist.append (List.Sublist.refl _) sub
      · have : (l :: m :: more)[i] ∈ (l :: m :: more).modify c List.tail := by
          refine List.mem_iff_getElem.mpr ⟨i, by simpa using hi, ?_⟩
          rw [List.getElem_modify]
          simp [Ne.symm hc]
        exact (hs _ this).trans (List.sublist_append_right _ _)

/-- Drawing an order changes the fields of open choices alone. -/
theorem shuffle_keeps {α : Type} (n : Nat) (as : List α) (s : State) :
    ∃ cs count, (shuffle n as s).2 = { s with choices := cs, choiceCount := count } := by
  induction n generalizing as s with
  | zero => exact ⟨_, _, rfl⟩
  | succ n ih =>
    match as with
    | [] => exact ⟨_, _, rfl⟩
    | [_] => exact ⟨_, _, rfl⟩
    | a :: b :: rest =>
      obtain ⟨cs, count, e⟩ :=
        ih ((a :: b :: rest).eraseIdx (s.choose (rest.length + 2)).1) (s.choose (rest.length + 2)).2
      refine ⟨cs, count, e.trans ?_⟩
      rw [choose_snd]

/-- Drawing an interleaving changes the fields of open choices alone. -/
theorem weave_keeps {α : Type} (n : Nat) (ss : List (List α)) (s : State) :
    ∃ cs count, (weave n ss s).2 = { s with choices := cs, choiceCount := count } := by
  induction n generalizing ss s with
  | zero => exact ⟨_, _, rfl⟩
  | succ n ih =>
    unfold weave
    split
    · exact ⟨_, _, rfl⟩
    · exact ⟨_, _, rfl⟩
    · rename_i l more _ _
      obtain ⟨cs, count, e⟩ :=
        ih ((l :: more).modify (s.choose (more.length + 1)).1 List.tail) (s.choose (more.length + 1)).2
      refine ⟨cs, count, e.trans ?_⟩
      rw [choose_snd]

/-- Taking the members of a list in any order is taking them in some order. -/
theorem inAnyOrder_spec {α : Type} (f : α → State → State) (as : List α) (s : State) :
    ∃ order cs count, List.Perm order as ∧
      inAnyOrder f as s = order.foldl (fun s a => f a s) { s with choices := cs, choiceCount := count } := by
  obtain ⟨cs, count, e⟩ := shuffle_keeps as.length as s
  refine ⟨_, cs, count, shuffle_perm as.length as s, ?_⟩
  rw [← e]
  rfl

/-- Taking several streams in any interleaving is taking all their members once, each stream in its own order. -/
theorem interleaveAll_spec {α : Type} (f : α → State → State) (ss : List (List α)) (s : State) :
    ∃ order cs count, List.Perm order ss.flatten ∧ (∀ l ∈ ss, l.Sublist order) ∧
      interleaveAll f ss s =
        order.foldl (fun s a => f a s) { s with choices := cs, choiceCount := count } := by
  obtain ⟨cs, count, e⟩ := weave_keeps ss.flatten.length ss s
  have w := weave_spec ss.flatten.length ss s (Nat.le_refl _)
  refine ⟨_, cs, count, w.1, w.2, ?_⟩
  rw [← e]
  rfl

/-! ### Posts (log 33) -/

theorem offer_eq_takeOffer {s : State} (h : s.outbox = none) (r : Report) : s.offer r = s.takeOffer r := by
  simp only [State.offer, h]

theorem offer_posts {s : State} {ps : List Post} (h : s.outbox = some ps) (r : Report) :
    s.offer r = s.withOutbox (some (ps ++ [.report r])) := by
  simp only [State.offer, h]

theorem raise_eq_handTrigger {s : State} (h : s.outbox = none) (t : Trigger) : s.raise t = s.handTrigger t := by
  simp only [State.raise, h]

theorem raise_posts {s : State} {ps : List Post} (h : s.outbox = some ps) (t : Trigger) :
    s.raise t = (s.withOutbox (some (ps ++ (s.cue.takers t).map (Post.trigger t))), []) := by
  simp only [State.raise, h]

/-- Notices offered one after another carry one song time. -/
theorem notifyAll_eq (ns : List Notice) (s : State) :
    ns.foldl (fun s n => s.notify n) s = ns.foldl (fun t n => t.offer (.notice s.now n)) s := by
  have key : ∀ (ns : List Notice) (u : State), u.clock = s.clock →
      ns.foldl (fun s n => s.notify n) u = ns.foldl (fun t n => t.offer (.notice s.now n)) u := by
    intro ns
    induction ns with
    | nil => intro u _; simp only [List.foldl_nil]
    | cons n ns ih =>
      intro u same
      have now : u.now = s.now := congrArg (fun c : SongClock => c.songTime.toInt) same
      rw [List.foldl_cons, List.foldl_cons, ih _ ((notify_moves n u).frame.2.2.1.trans same), State.notify,
        State.noticeOf, now]
  exact key ns s rfl

@[simp] theorem collect_outbox (f : State → State) (s : State) : (s.collect f).2.outbox = s.outbox := rfl

@[simp] theorem collectAll_outbox {α : Type} (f : α → State → State) (as : List α) (s : State) :
    (s.collectAll f as).2.outbox = s.outbox := by
  induction as generalizing s with
  | nil => rfl
  | cons a as ih => exact ih _

/-- Hand-offs taken one after another, as one fold that gathers the streams of their posts. -/
theorem collectAll_eq_foldl {α : Type} (f : α → State → State) (as : List α) (s : State) :
    s.collectAll f as =
      as.foldl (fun acc a => (acc.1 ++ postStreams (acc.2.collect (f a)).1, (acc.2.collect (f a)).2)) ([], s) := by
  have key : ∀ (as : List α) (ss : List (List Post)) (s : State),
      as.foldl (fun acc a => (acc.1 ++ postStreams (acc.2.collect (f a)).1, (acc.2.collect (f a)).2)) (ss, s) =
        (ss ++ (s.collectAll f as).1, (s.collectAll f as).2) := by
    intro as
    induction as with
    | nil => intro ss s; simp [State.collectAll]
    | cons a as ih =>
      intro ss s
      rw [List.foldl_cons, ih]
      simp only [State.collectAll, List.append_assoc]
  rw [key, List.nil_append]

/-- Streams of posts delivered: all of them once, each stream in its own order. -/
theorem deliver_spec (ss : List (List Post)) (s : State) :
    ∃ posts cs count, List.Perm posts ss.flatten ∧ (∀ l ∈ ss, l.Sublist posts) ∧
      s.deliver ss = posts.foldl (fun s p => s.takePost p) { s with choices := cs, choiceCount := count } :=
  interleaveAll_spec State.takePost ss s

/-- Hand-offs are taken in some order, and then their posts are delivered. -/
theorem takeHandOffs_spec (hs : List HandOff) (s : State) :
    ∃ order cs count, List.Perm order hs ∧
      s.takeHandOffs hs =
        let taken := State.collectAll State.takeHandOff order { s with choices := cs, choiceCount := count }
        taken.2.deliver taken.1 := by
  obtain ⟨cs, count, e⟩ := shuffle_keeps hs.length hs s
  refine ⟨_, cs, count, shuffle_perm hs.length hs s, ?_⟩
  rw [← e]
  rfl

/-- What a round end has posted, by station: the reports of the engine in their order and the notices of the contact work,
CALIBRATED behind them, and the triggers to each channel. -/
theorem roundStreams_spec (taken : List TakenItem) (ks : List StationId) (nodup : ks.Nodup) (s : State) :
    ∃ (mixed : StationId → List Post) (cs : List Nat) (count : Nat),
      roundStreams taken ks s =
        (ks.flatMap fun k => (mixed k ++ jobEndPosts k taken) :: triggerStreams (enginePosts k taken),
          { s with choices := cs, choiceCount := count }) ∧
      ∀ k ∈ ks, (mixed k).Perm ((enginePosts k taken).filter Post.isReport ++ (noticePosts k taken).flatten) ∧
        ((enginePosts k taken).filter Post.isReport).Sublist (mixed k) := by
  induction ks generalizing s with
  | nil => exact ⟨fun _ => [], _, _, rfl, by simp⟩
  | cons k ks ih =>
    obtain ⟨notIn, nodup'⟩ := List.nodup_cons.mp nodup
    let reports := (enginePosts k taken).filter Post.isReport :: noticePosts k taken
    have w := weave_spec reports.flatten.length reports s (Nat.le_refl _)
    obtain ⟨cs₁, count₁, e₁⟩ := weave_keeps reports.flatten.length reports s
    obtain ⟨mixed, cs₂, count₂, e₂, spec⟩ := ih nodup' (weave reports.flatten.length reports s).2
    refine ⟨Function.update mixed k (weave reports.flatten.length reports s).1, cs₂, count₂, ?_, ?_⟩
    · unfold roundStreams
      simp only [reports] at e₁ e₂ ⊢
      simp only [e₂, List.flatMap_cons, Function.update_self, List.cons_append]
      refine Prod.ext (congrArg₂ _ rfl (congrArg₂ _ rfl ?_)) (by rw [e₁])
      refine List.flatMap_congr fun j hj => ?_
      rw [Function.update_of_ne (fun e : j = k => notIn (by rwa [e] at hj))]
    · intro j hj
      by_cases e : j = k
      · subst e
        rw [Function.update_self]
        exact ⟨w.1, w.2 _ (.head _)⟩
      · rw [Function.update_of_ne e]
        exact spec j ((List.mem_cons.mp hj).resolve_left e)

/-! ### The other draws -/

/-- The members that a number picks and the others are all members. -/
theorem pickBits_perm {α : Type} (n : Nat) (as : List α) : ((pickBits n as).1 ++ (pickBits n as).2).Perm as := by
  unfold pickBits
  simp only
  rw [← List.map_append]
  refine ((List.filter_append_perm (fun p : α × Nat => n.testBit p.2) as.zipIdx).map _).trans ?_
  simp

/-- Picking some members of a list parts it in two and changes the fields of open choices alone. -/
theorem pickSome_spec {α : Type} (as : List α) (s : State) :
    ((s.pickSome as).1.1 ++ (s.pickSome as).1.2).Perm as ∧
      ∃ cs count, (s.pickSome as).2 = { s with choices := cs, choiceCount := count } := by
  unfold State.pickSome
  split
  · rename_i h
    rw [List.isEmpty_iff.mp h]
    exact ⟨.refl _, _, _, rfl⟩
  · exact ⟨pickBits_perm _ _, _, _, choose_snd _ _⟩

/-- What a round end hands on for each of some stations: its contact work in an order that keeps its events in lane order,
then the CALIBRATED notice of a job that ends there. -/
theorem stationItems_spec (o : RoundOutcome) (ks : List StationId) (nodup : ks.Nodup) (s : State) :
    ∃ (work : StationId → List RoundItem) (cs : List Nat) (count : Nat),
      o.stationItems ks s =
        (ks.map fun k => work k ++ (o.calibrated.filter fun n => decide (n.station = some k)).map RoundItem.jobEnd,
          { s with choices := cs, choiceCount := count }) ∧
      ∀ k ∈ ks, (work k).Perm (o.contactWork k).flatten ∧ (o.itemsOf k).Sublist (work k) := by
  induction ks generalizing s with
  | nil => exact ⟨fun _ => [], _, _, rfl, by simp⟩
  | cons k ks ih =>
    obtain ⟨notIn, nodup'⟩ := List.nodup_cons.mp nodup
    have w := weave_spec (o.contactWork k).flatten.length (o.contactWork k) s (Nat.le_refl _)
    obtain ⟨cs₁, count₁, e₁⟩ := weave_keeps (o.contactWork k).flatten.length (o.contactWork k) s
    obtain ⟨work, cs₂, count₂, e₂, spec⟩ := ih nodup' (weave (o.contactWork k).flatten.length (o.contactWork k) s).2
    refine ⟨Function.update work k (weave (o.contactWork k).flatten.length (o.contactWork k) s).1, cs₂, count₂, ?_, ?_⟩
    · unfold RoundOutcome.stationItems
      simp only [e₂, List.map_cons, Function.update_self]
      refine Prod.ext (congrArg₂ _ rfl (List.map_congr_left fun j hj => ?_)) (by rw [e₁])
      rw [Function.update_of_ne (fun e : j = k => notIn (by rwa [e] at hj))]
    · intro j hj
      by_cases e : j = k
      · subst e
        rw [Function.update_self]
        exact ⟨w.1, w.2 _ (.head _)⟩
      · rw [Function.update_of_ne e]
        exact spec j ((List.mem_cons.mp hj).resolve_left e)

end Sys2Proof.Machine
end

