-- ==== Sys2Proof/Laws/PerInstr.lean ====
section
/-! SUPPORT. One lemma for each command, about its link frame: the payload of a well-formed request fits LEN (11.1), and a
command that is no request carries none. -/

namespace Sys2Proof.Laws.RequestFrame

/-- A well-formed request's payload is at most 240 bytes, the greatest LEN; a command of no KIND has no payload. -/
def Statement (i : Instr) : Prop := i.wf = true → i.payload.length ≤ 240 ∧ (i.kind = none → i.payload = [])

theorem pinReset (straps : BitVec 2) : Statement (.pinReset straps) := fun _ => ⟨Nat.zero_le _, fun _ => rfl⟩

theorem startFallingEdge : Statement .startFallingEdge := fun _ => ⟨Nat.zero_le _, fun _ => rfl⟩

theorem wclkEdge : Statement .wclkEdge := fun _ => ⟨Nat.zero_le _, fun _ => rfl⟩

theorem watchTimerExpiry : Statement .watchTimerExpiry := fun _ => ⟨Nat.zero_le _, fun _ => rfl⟩

theorem haltTimerExpiry : Statement .haltTimerExpiry := fun _ => ⟨Nat.zero_le _, fun _ => rfl⟩

theorem scanRoundStart : Statement .scanRoundStart := fun _ => ⟨Nat.zero_le _, fun _ => rfl⟩

theorem scanRoundEnd (data : RoundData) : Statement (.scanRoundEnd data) := fun _ => ⟨Nat.zero_le _, fun _ => rfl⟩

theorem stepExpiry (channel : ChannelId) : Statement (.stepExpiry channel) := fun _ => ⟨Nat.zero_le _, fun _ => rfl⟩

theorem rxdByte (value : Byte) (framingError : Bool) : Statement (.rxdByte value framingError) := fun _ => ⟨Nat.zero_le _, fun _ => rfl⟩

theorem gapTimerExpiry : Statement .gapTimerExpiry := fun _ => ⟨Nat.zero_le _, fun _ => rfl⟩

theorem linkBreak : Statement .linkBreak := fun _ => ⟨Nat.zero_le _, fun _ => rfl⟩

theorem frameTaken : Statement .frameTaken := fun _ => ⟨Nat.zero_le _, fun _ => rfl⟩

theorem transmitComplete : Statement .transmitComplete := fun _ => ⟨Nat.zero_le _, fun _ => rfl⟩

theorem systemResetEvent : Statement .systemResetEvent := fun _ => ⟨Nat.zero_le _, fun _ => rfl⟩

theorem identify : Statement .identify := fun _ => ⟨Nat.zero_le _, fun _ => rfl⟩

theorem systemReset : Statement .systemReset := fun _ => ⟨Nat.zero_le _, fun _ => rfl⟩

theorem noticeMaskSet (mask : BitVec 24) : Statement (.noticeMaskSet mask) := fun _ => ⟨by simp [Instr.payload], fun k => by cases k⟩

theorem scanSet (period : Half) : Statement (.scanSet period) := fun _ => ⟨by simp [Instr.payload], fun k => by cases k⟩

theorem panelSet (r : PanelRec) : Statement (.panelSet r) := fun _ => ⟨by simp [Instr.payload], fun k => by cases k⟩

theorem calibrate (station : Byte) : Statement (.calibrate station) := fun _ => ⟨by simp [Instr.payload], fun k => by cases k⟩

theorem panelRead (station : Byte) : Statement (.panelRead station) := fun _ => ⟨by simp [Instr.payload], fun k => by cases k⟩

theorem tempoClear (origin : Word) : Statement (.tempoClear origin) := fun _ => ⟨by simp [Instr.payload], fun k => by cases k⟩

theorem tempoPut (segments : List SegmentRec) : Statement (.tempoPut segments) := by
  intro h
  have h := of_decide_eq_true h
  refine ⟨?_, fun k => by cases k⟩
  simp only [Instr.payload, List.length_cons, length_records SegmentRec.length_bytes]
  omega

theorem windowsSet (r : WindowsRec) : Statement (.windowsSet r) := fun _ => ⟨by simp [Instr.payload], fun k => by cases k⟩

theorem scoringSet (r : ScoringRec) : Statement (.scoringSet r) := fun _ => ⟨by simp [Instr.payload, PerResult.toList], fun k => by cases k⟩

theorem ladderSet (rungs : List RungRec) : Statement (.ladderSet rungs) := by
  intro h
  have h := of_decide_eq_true h
  refine ⟨?_, fun k => by cases k⟩
  simp only [Instr.payload, List.length_cons, length_records RungRec.length_bytes]
  omega

theorem stationSet (r : StationRec) : Statement (.stationSet r) := fun _ => ⟨by simp [Instr.payload], fun k => by cases k⟩

theorem chartOpen (station : Byte) (mode : Byte) : Statement (.chartOpen station mode) := fun _ => ⟨by simp [Instr.payload], fun k => by cases k⟩

theorem notesPut (station : Byte) (baseId : Half) (records : List NoteRec) : Statement (.notesPut station baseId records) := by
  intro h
  have h := of_decide_eq_true h
  refine ⟨?_, fun k => by cases k⟩
  simp only [Instr.payload, List.length_cons, List.length_append, List.length_nil, length_be16,
    length_records NoteRec.length_bytes]
  omega

theorem chartClose (station : Byte) : Statement (.chartClose station) := fun _ => ⟨by simp [Instr.payload], fun k => by cases k⟩

theorem stationStatus (station : Byte) : Statement (.stationStatus station) := fun _ => ⟨by simp [Instr.payload], fun k => by cases k⟩

theorem tallyRead (station : Byte) : Statement (.tallyRead station) := fun _ => ⟨by simp [Instr.payload], fun k => by cases k⟩

theorem stationClear (station : Byte) : Statement (.stationClear station) := fun _ => ⟨by simp [Instr.payload], fun k => by cases k⟩

theorem songArm (mask : Byte) (startFrame : Word) : Statement (.songArm mask startFrame) := fun _ => ⟨by simp [Instr.payload], fun k => by cases k⟩

theorem songGo : Statement .songGo := fun _ => ⟨Nat.zero_le _, fun _ => rfl⟩

theorem songAbort (conditions : Byte) (n : Half) : Statement (.songAbort conditions n) := fun _ => ⟨by simp [Instr.payload], fun k => by cases k⟩

theorem songStatus : Statement .songStatus := fun _ => ⟨Nat.zero_le _, fun _ => rfl⟩

theorem checkpointPush (station : Byte) : Statement (.checkpointPush station) := fun _ => ⟨by simp [Instr.payload], fun k => by cases k⟩

theorem checkpointPop (station : Byte) : Statement (.checkpointPop station) := fun _ => ⟨by simp [Instr.payload], fun k => by cases k⟩

theorem checkpointDrop (station : Byte) : Statement (.checkpointDrop station) := fun _ => ⟨by simp [Instr.payload], fun k => by cases k⟩

theorem checkpointRead (station : Byte) : Statement (.checkpointRead station) := fun _ => ⟨by simp [Instr.payload], fun k => by cases k⟩

theorem cueStepsPut (startSlot : Byte) (steps : List StepRec) : Statement (.cueStepsPut startSlot steps) := by
  intro h
  have h := of_decide_eq_true h
  refine ⟨?_, fun k => by cases k⟩
  simp only [Instr.payload, List.length_cons, length_records StepRec.length_bytes]
  omega

theorem cueChannelSet (r : ChannelRec) : Statement (.cueChannelSet r) := fun _ => ⟨by simp [Instr.payload], fun k => by cases k⟩

theorem cueFire (channel : Byte) : Statement (.cueFire channel) := fun _ => ⟨by simp [Instr.payload], fun k => by cases k⟩

theorem cueStop (channel : Byte) : Statement (.cueStop channel) := fun _ => ⟨by simp [Instr.payload], fun k => by cases k⟩

theorem lineBaseSet (firstLine : Byte) (levels : List Byte) : Statement (.lineBaseSet firstLine levels) := by
  intro h
  have h := of_decide_eq_true h
  refine ⟨?_, fun k => by cases k⟩
  simp only [Instr.payload, List.length_cons]
  omega

theorem cueStatus (part : Byte) : Statement (.cueStatus part) := fun _ => ⟨by simp [Instr.payload], fun k => by cases k⟩

theorem rxdReturnsHigh : Statement .rxdReturnsHigh := fun _ => ⟨Nat.zero_le _, fun _ => rfl⟩

end Sys2Proof.Laws.RequestFrame
end

