-- ==== Sys2Proof/Tests/Slice0.lean ====
section
/-! SUPPORT. The package's own tests: the ill-formed terms that the form check refuses, the check of R173, one or two small
tests for each command, and for each obligation that has hypotheses a witness that meets them, clause by clause at the
boundary values. -/

namespace Sys2Proof.Tests

open Sys2Proof.Machine

set_option Elab.async false

/-! ### States and helpers -/

/-- The state after a command; the state itself where the command stops. -/
def ex (c : Instr) (s : State) : State :=
  match exec c s with
  | .next t => t
  | .fault _ => s
  | .refused _ => s

/-- The payload of the reply in the slot. -/
def said (s : State) : List Byte := (s.link.slot.map Reply.payload).getD []

/-- Right after reset. -/
def s0 : State := State.reset

/-- Right after reset but for the song state. -/
def inSong (g : SongState) : State := s0.mapSong fun x => { x with state := g }

/-- Right after reset but for the state of station 1. -/
def inStation (st : StationState) : State := s0.mapStation 1 fun x => { x with state := st }

/-- Right after reset but for the link port. -/
def inLink (f : LinkPort → LinkPort) : State := s0.mapLink f

/-- A beat segment of 500 frames a tick, from tick 0 at frame 0. -/
def beat0 : Segment := { startTick := 0, startFrame := 0, body := .beat 1572864000 4 }

/-- The tempo segment record of that segment. -/
def beatRec : SegmentRec := ⟨0, 0, 4, 1572864000, 0⟩

/-- An OPEN tap on chart lane 4, lane 4. -/
def tap (seq : Nat) (frame : Int) : Entry :=
  { seq := seq, noteId := 7, tick := 20, frame := frame, body := .tap 4 4, chord := none, state := .opened }

/-- A HOLD on lane 4 with its tail at frame 12000, in state HOLDING. -/
def held4 : Entry :=
  { seq := 0, noteId := 8, tick := 20, frame := 10000, body := .hold 4 4 24 12000, chord := none, state := .holding }

/-- A mine on lane 4. -/
def mine4 (st : EntryState) : Entry :=
  { seq := 3, noteId := 9, tick := 20, frame := 10000, body := .mine 4 4, chord := none, state := st }

/-- Station 1 PLAYING a queue in a RUNNING song of station 1 alone, at a song time; open orders fall the first way. -/
def playing1 (time : Int) (queue : List Entry) : State :=
  { s0 with
    clock := { s0.clock with songTime := BitVec.ofInt 32 time, map := [beat0], watch := .present, watchTimer := some 0 },
    stations := s0.stations.set 1 { Station.reset with
      state := .playing, queue := queue, endAccepted := true, context := { ScoreContext.zero with life := 500 } },
    song := { s0.song with state := .running, armed := 2#4 },
    choices := List.replicate 12 0 }

/-- A hold item of lane 4 with a deadline. -/
def item4 (d : Deadline) : HoldItem := { lane := 4, seq := 0, deadline := d }

/-- A running step of channel 0 that owns line 5. -/
def running0 : RunningStep :=
  { step := { mode := .fixed, line := 5, level := 200, duration := 3 }, line := 5, serial := 1,
    record := { station := none, lane := none }, expiry := 48000 }

/-- Right after reset but for cue channel 0. -/
def inChannel (f : CueChannel → CueChannel) : State := s0.mapCue fun e => e.mapChannel 0 f

/-- A note record: a tap of chart lane 4 at tick 20. -/
def tapRec : NoteRec := ⟨0, 4, 20, 0⟩

/-! ### Form: what no link frame can carry (R187) -/

theorem test_refusesTempoPutOfNone : (Instr.tempoPut []).wf = false := by decide
theorem test_refusesTempoPutOf17 : (Instr.tempoPut (List.replicate 17 beatRec)).wf = false := by decide
theorem test_refusesNotesPutOfNone : (Instr.notesPut 0 0 []).wf = false := by decide
theorem test_refusesNotesPutOf24 : (Instr.notesPut 0 0 (List.replicate 24 tapRec)).wf = false := by decide
theorem test_refusesCueStepsPutOfNone : (Instr.cueStepsPut 0 []).wf = false := by decide
theorem test_refusesCueStepsPutOf41 : (Instr.cueStepsPut 0 (List.replicate 41 ⟨0, 0, 0, 1⟩)).wf = false := by decide
theorem test_refusesLadderSetOf48 : (Instr.ladderSet (List.replicate 48 ⟨0, 16⟩)).wf = false := by decide
theorem test_refusesLineBaseSetOfNone : (Instr.lineBaseSet 0 []).wf = false := by decide
theorem test_refusesLineBaseSetOf49 : (Instr.lineBaseSet 0 (List.replicate 49 0)).wf = false := by decide
theorem test_acceptsTheLargestCounts :
    (Instr.tempoPut (List.replicate 16 beatRec)).wf = true ∧ (Instr.notesPut 0 0 (List.replicate 23 tapRec)).wf = true ∧
      (Instr.cueStepsPut 0 (List.replicate 40 ⟨0, 0, 0, 1⟩)).wf = true ∧
      (Instr.ladderSet (List.replicate 47 ⟨0, 16⟩)).wf = true ∧ (Instr.ladderSet []).wf = true ∧
      (Instr.lineBaseSet 0 (List.replicate 48 0)).wf = true := by decide

/-! ### The link frame codec -/

/-- R173: the check over the nine bytes 0x31 to 0x39. -/
theorem test_checkOfNineDigits :
    crc16 [0x31#8, 0x32#8, 0x33#8, 0x34#8, 0x35#8, 0x36#8, 0x37#8, 0x38#8, 0x39#8] = 0x29B1#16 := by decide +kernel

theorem test_songArmIsReadBack :
    decodeRequest 0x14#8 [0x03#8, 0xFF#8, 0xFF#8, 0xFF#8, 0xFE#8] = .request (.songArm 3 (-2)) := by decide +kernel

theorem test_tableGivesNoBits : decodeTableWord 8 0x5A = none ∧ s0.withFetchWord 8 0x5A = s0 := ⟨rfl, rfl⟩

/-! ### One command each: events -/

theorem test_pinResetTakesTheStraps : (ex (.pinReset 3) s0).link.rate = .r2000000 := by decide +kernel

theorem test_startEdgeLatches :
    (ex .startFallingEdge (inSong .armed)).song.latch = true ∧ (ex .startFallingEdge s0).song.latch = false := by
  decide +kernel

theorem test_edgeCounts :
    (ex .wclkEdge (playing1 99 [])).clock.songTime = 100 ∧ (ex .wclkEdge s0).clock.songTime = 0 ∧
      (ex .wclkEdge s0).clock.watch = .present := by decide +kernel

theorem test_missAtTheClose :
    ((ex .wclkEdge (playing1 16479 [tap 0 10000])).station 1).context.life = 440 ∧
      ((ex .wclkEdge (playing1 16479 [tap 0 10000])).station 1).queue = [] := by decide +kernel

theorem test_watchExpiryHalts :
    (ex .watchTimerExpiry (playing1 99 [])).song.state = .halted ∧
      (ex .watchTimerExpiry (playing1 99 [])).refTime = 32000 := by decide +kernel

theorem test_haltExpiryAborts :
    let s := (playing1 99 [tap 0 10000]).mapSong fun g => { g with state := .halted, halt := .running 100 }
    ((ex .haltTimerExpiry s).station 1).state = .aborted ∧ (ex .haltTimerExpiry s).song.cause = .clock ∧
      (ex .haltTimerExpiry s).refTime = 8000100 := by decide +kernel

/-- A transaction of device d whose input 0 reads 200. -/
def press0 (d : Nat) : Transaction := { ack := BitVec.ofNat 8 (0x50 + d), data := 200#80 <<< 70 }

theorem test_roundStarts :
    (ex .scanRoundStart s0).refTime = 16000 ∧
      (ex .scanRoundStart s0).scanner.round = some { stamp := 0, void := false } := by decide +kernel

theorem test_roundEndReads :
    let s := s0.mapScanner fun sc => { sc with round := some { stamp := 77, void := false } }
    let t := ex (.scanRoundEnd ⟨press0 0, press0 1, press0 2, press0 3, press0 9⟩) s
    (t.scanner.channels[8]).contact = .pressing ∧ (t.scanner.channels[8]).crossing = some 77 ∧
      (t.scanner.channels[9]).contact = .up ∧ (t.scanner.devices[4]).unanswered = 1 := by decide +kernel

theorem test_stepExpiryReleases :
    let s := ({ s0 with cue := { s0.cue with
      lines := s0.cue.lines.set 5 { base := 20, current := 200, owner := some { channel := 0, serial := 1 } } } }).mapCue
        fun e => e.mapChannel 0 fun ch => { ch with state := .stepping running0, serial := 1 }
    (ex (.stepExpiry 0) s).cue.lines[5] = { base := 20, current := 20, owner := none } ∧
      ((ex (.stepExpiry 0) s).cue.channels[0]).state = .done ∧ (ex (.stepExpiry 0) s).refTime = 48000 := by
  decide +kernel

theorem test_syncByteBegins :
    (ex (.rxdByte 0x5A false) s0).link.framer = .length ∧ (ex (.rxdByte 0x5B false) s0).link.framer = .hunt := by
  decide +kernel

theorem test_gapTruncates :
    let s := inLink fun l => { l with framer := .kind 3, current := [0x5A, 3], gap := .running 10 }
    (ex .gapTimerExpiry s).link.ended = [{ bytes := [0x5A, 3], truncated := true }] ∧
      (ex .gapTimerExpiry s).refTime = 80011 := by decide +kernel

theorem test_breakEmptiesTheBuffer :
    let s := inLink fun l => { l with ended := [{ bytes := [0x5A], truncated := true }] }
    (ex .linkBreak s).link.ended = [] ∧ (ex .linkBreak s).link.rxd = .broken ∧
      (ex .rxdReturnsHigh (ex .linkBreak s)).link.rxd = .high := by decide +kernel

theorem test_frameOfAGoodRequest :
    let s := inLink fun l => { l with ended := [{ bytes := (Instr.scanSet 2000).frame, truncated := false }] }
    (ex .frameTaken s).scanner.period = 2000 ∧ said (ex .frameTaken s) = [0x00] := by decide +kernel

theorem test_frameOfABadCheck :
    let s := inLink fun l => { l with ended := [{ bytes := [0x5A, 0, 1, 0, 0], truncated := false }] }
    said (ex .frameTaken s) = [0x03, 1, 0, 1, 1] := by decide +kernel

theorem test_lostGoesBeforeReports :
    let s := inLink fun l => { l with tx := some (.lost 1), loss := 3, reports := [.notice 0 .clockLost] }
    (ex .transmitComplete s).link.tx = some (.lost 3) ∧ (ex .transmitComplete s).link.loss = 0 := by decide +kernel

theorem test_systemResetKeepsTheTables :
    let s := { inLink (fun l => { l with resetDue := true }) with scoring := { Scoring.reset with lifeMax := 900 } }
    (ex .systemResetEvent s).scoring.lifeMax = 900 ∧ (ex .systemResetEvent s).link.resetDue = false := by
  decide +kernel

/-! ### One command each: requests -/

theorem test_identify :
    said (ex .identify s0) = [0x00, 0x5A, 0x04, 0x41, 4, 9, 192, 4, 1, 0, 8, 48, 64] := by decide +kernel

theorem test_systemResetWaits :
    (ex .systemReset s0).link.slot = some { kind := 0x82, payload := [0], thenReset := true } := by decide +kernel

theorem test_noticeMask :
    (ex (.noticeMaskSet 0x03FFFF) s0).link.mask = 0x03FFFF ∧ said (ex (.noticeMaskSet 0x040000) s0) = [0x05] := by
  decide +kernel

theorem test_scanSet :
    (ex (.scanSet 500) s0).scanner.period = 500 ∧ said (ex (.scanSet 501) s0) = [0x05] := by decide +kernel

theorem test_panelSet :
    ((ex (.panelSet ⟨1, 0x10, 300, 200, 8, 1⟩) s0).scanner.channels[13]).p = 300 ∧
      ((ex (.panelSet ⟨1, 0x10, 300, 200, 8, 1⟩) s0).scanner.channels[12]).p = 180 ∧
      said (ex (.panelSet ⟨1, 0x10, 300, 300, 8, 1⟩) s0) = [0x05] := by decide +kernel

theorem test_calibrate :
    said (ex (.calibrate 3) s0) = [0x01] ∧ said (ex (.calibrate 1) (inStation .playing)) = [0x06] ∧
      said (ex (.calibrate 4) s0) = [0x05] := by decide +kernel

theorem test_panelReadLength : (said (ex (.panelRead 0) s0)).length = (s0.panelBytes 0).length + 1 := by decide +kernel

theorem test_tempoClear :
    (ex (.tempoClear 5) s0).clock.origin = 5 ∧ said (ex (.tempoClear 5) (inSong .armed)) = [0x06] := by decide +kernel

theorem test_tempoPut :
    (ex (.tempoPut [beatRec]) s0).clock.map = [beat0] ∧ said (ex (.tempoPut [beatRec, beatRec]) s0) = [0x0C, 1] := by
  decide +kernel

theorem test_windowsSet :
    (ex (.windowsSet ⟨1, 2, 3, 4, 1, 1⟩) s0).windows = ⟨1, 2, 3, 4, 1, 1⟩ ∧
      said (ex (.windowsSet ⟨1, 2, 2, 4, 1, 1⟩) s0) = [0x05] := by decide +kernel

theorem test_scoringSet :
    (ex (.scoringSet ⟨PerResult.all 1, PerResult.all 0xFC18, 1000, 1000⟩) s0).scoring.lifeStart = 1000 ∧
      said (ex (.scoringSet ⟨PerResult.all 1, PerResult.all 0xFC17, 1000, 1000⟩) s0) = [0x05] := by decide +kernel

theorem test_ladderSet :
    (ex (.ladderSet [⟨0, 16⟩, ⟨10, 24⟩]) s0).ladder = [⟨0, 16⟩, ⟨10, 24⟩] ∧
      said (ex (.ladderSet [⟨1, 16⟩]) s0) = [0x05] := by decide +kernel

theorem test_stationSet :
    ((ex (.stationSet ⟨2, 0x10, 7, 1, 1, 16777216⟩) s0).station 2).laneMap = .mirrorAnti ∧
      said (ex (.stationSet ⟨2, 0x10, 8, 1, 1, 1⟩) s0) = [0x05] ∧
      said (ex (.stationSet ⟨1, 0x10, 0, 0, 0, 1⟩) (inStation .playing)) = [0x06] := by decide +kernel

theorem test_chartOpen :
    let s := s0.mapClock fun c => { c with map := [beat0] }
    ((ex (.chartOpen 1 0) s).station 1).state = .loaded ∧ ((ex (.chartOpen 1 0) s).station 1).context.life = 500 ∧
      said (ex (.chartOpen 1 0) s0) = [0x11] := by decide +kernel

theorem test_notesPut :
    let s := (inStation .loaded).mapClock fun c => { c with map := [beat0] }
    ((ex (.notesPut 1 7 [tapRec]) s).station 1).queue.map Entry.frame = [10000] ∧
      said (ex (.notesPut 1 7 [tapRec, tapRec]) s) = [0x02, 1, 1, 0x0C] := by decide +kernel

theorem test_chartClose :
    ((ex (.chartClose 1) (inStation .loaded)).station 1).state = .vacant ∧ said (ex (.chartClose 1) s0) = [0x06] := by
  decide +kernel

theorem test_statusReads :
    (said (ex (.stationStatus 0) s0)).head? = some 0x00 ∧ (said (ex (.tallyRead 0) s0)).length = 55 ∧
      (said (ex .songStatus s0)).head? = some 0x00 ∧ said (ex (.checkpointRead 0) s0) = [0x14] := by decide +kernel

theorem test_stationClear :
    ((ex (.stationClear 1) (playing1 9 [tap 0 10000])).station 1).state = .vacant ∧
      (ex (.stationClear 1) (playing1 9 [tap 0 10000])).song.cause = .complete := by decide +kernel

/-- R42, R130, R146: a STATION_CLEAR that cancels a pending push, with another armed station playing. -/
theorem test_stationClearCancelsThePush :
    let s := ((playing1 9 []).mapStation 1 fun st => { st with pushPending := true }).mapStation 2 fun st =>
      { st with state := .playing }
    let s := s.mapSong fun g => { g with armed := 6#4 }
    (ex (.stationClear 1) s).link.reports = [.notice 9 (.checkpointCancelled 1)] ∧
      (ex (.stationClear 1) s).song = s.song := by decide +kernel

theorem test_songArm :
    (ex (.songArm 2 0xFFFFFFFF) (inStation .loaded)).song.startFrame = -1 ∧
      (ex (.songArm 2 0) (inStation .loaded)).song.state = .armed ∧
      said (ex (.songArm 16 0) s0) = [0x05] ∧ said (ex (.songArm 0 0) s0) = [0x06] := by decide +kernel

theorem test_songGo :
    (ex .songGo (inSong .armed)).song.latch = true ∧ said (ex .songGo s0) = [0x06] := by decide +kernel

theorem test_songAbort :
    ((ex (.songAbort 1 0) (playing1 9 [tap 0 10000])).station 1).state = .aborted ∧
      (ex (.songAbort 2 5) (playing1 9 [])).song.abortSet.atMeasure = true ∧
      said (ex (.songAbort 1 0) s0) = [0x12] ∧ said (ex (.songAbort 16 0) s0) = [0x05] := by decide +kernel

theorem test_checkpointPush :
    said (ex (.checkpointPush 1) (inStation .loaded)) = [0x00, 1] ∧
      said (ex (.checkpointPush 1) ((playing1 9 []).mapStation 1 fun st => { st with queue := [held4] })) = [0x01, 0] ∧
      said (ex (.checkpointPush 1) s0) = [0x06] := by decide +kernel

theorem test_checkpointPopAndDrop :
    let s := (inStation .loaded).mapStation 1 fun st => { st with stack := [{ ScoreContext.zero with life := 9 }] }
    ((ex (.checkpointPop 1) s).station 1).context.life = 9 ∧ said (ex (.checkpointPop 1) s) = [0x00, 0, 0, 0, 0, 0] ∧
      said (ex (.checkpointDrop 1) s) = [0x00, 0] ∧ said (ex (.checkpointDrop 1) s0) = [0x14] := by decide +kernel

theorem test_cueStepsPut :
    ((ex (.cueStepsPut 255 [⟨0, 1, 9, 2⟩, ⟨2, 47, 8, 3⟩]) s0).cue.memory[0]).level = 8 ∧
      said (ex (.cueStepsPut 255 [⟨0, 1, 9, 2⟩, ⟨0, 48, 8, 3⟩]) s0) = [0x05, 1] := by decide +kernel

theorem test_cueChannelSet :
    ((ex (.cueChannelSet ⟨7, 255, 256, 1, 1, 1, 8, 0, 0, 0, 7⟩) s0).cue.channels[7]).state = .armed ∧
      said (ex (.cueChannelSet ⟨7, 255, 257, 1, 1, 1, 8, 0, 0, 0, 7⟩) s0) = [0x05] := by decide +kernel

theorem test_cueFireAndStop :
    let s := inChannel fun ch => { ch with state := .armed, config := { ch.config with source := .linkFire } }
    said (ex (.cueFire 0) s) = [0x00, 2] ∧ (ex (.cueFire 0) s).cue.lines[0].owner = some { channel := 0, serial := 1 } ∧
      said (ex (.cueFire 0) s0) = [0x06] ∧ said (ex (.cueStop 8) s0) = [0x05] := by decide +kernel

theorem test_lineBaseSet :
    ((ex (.lineBaseSet 47 [9]) s0).cue.lines[47]).current = 9 ∧ said (ex (.lineBaseSet 47 [9, 9]) s0) = [0x05] := by
  decide +kernel

theorem test_cueStatus :
    (said (ex (.cueStatus 1) s0)).length = 145 ∧ said (ex (.cueStatus 2) s0) = [0x05] ∧
      ((ex (.cueStatus 0) (inChannel fun ch => { ch with overrun := true })).cue.channels[0]).overrun = false := by
  decide +kernel

/-! ### Witnesses: the hypotheses of each obligation are met, clause by clause -/

theorem witness_StepTakesTheFrontCommand :
    ({ s0 with pending := [.wclkEdge, .identify] } : State).pending = .wclkEdge :: [.identify] := rfl

theorem witness_EveryCommandGoesOnAndIdleCommandsChangeNothing :
    s0.pending = [] ∧ s0.clock.watchTimer = none ∧ s0.song.state ≠ .halted ∧
      ((inSong .halted).song.state = .halted ∧ (inSong .halted).song.halt = .stopped 0) ∧
      (s0.mapScanner fun sc => { sc with round := some { stamp := 0, void := false } }).scanner.round ≠ none ∧
      s0.scanner.round = none ∧ (s0.cue.channels[7]).running = none ∧ s0.link.gap = .stopped ∧ s0.link.ended = [] ∧
      (inLink fun l => { l with slot := some { kind := 0x81, payload := [0], thenReset := false } }).link.slot ≠ none ∧
      (inLink fun l => { l with resetDue := true }).link.resetDue = true ∧ s0.link.tx = none ∧
      s0.link.resetDue = false := by decide +kernel

theorem witness_RequestsAreReadBack :
    (Instr.tempoPut (List.replicate 16 beatRec)).wf = true ∧
      (Instr.tempoPut (List.replicate 16 beatRec)).kind = some 0x09 ∧ Instr.identify.wf = true ∧
      Instr.identify.kind = some 0x01 ∧ (Instr.cueStatus 255).wf = true ∧ (Instr.cueStatus 255).kind = some 0x21 := by
  decide +kernel

/-- The bytes of a frame with a payload of 240 zeros on RXD, in an inbound buffer with just enough room. -/
def longFrame : State :=
  { inLink (fun l => { l with ended := [{ bytes := List.replicate 267 0, truncated := true }] }) with
    pending := ((frameBytes 0x0F (List.replicate 240 0)).map fun b => .rxdByte b false) ++ [.identify] }

theorem witness_FramerTakesAWholeFrame :
    (List.replicate 240 (0 : Byte)).length ≤ 240 ∧
      longFrame.pending = ((frameBytes 0x0F (List.replicate 240 0)).map fun b => .rxdByte b false) ++ [.identify] ∧
      longFrame.link.rxd = .high ∧ longFrame.link.framer = .hunt ∧ longFrame.link.current = [] ∧
      longFrame.link.occupancy + (List.replicate 240 (0 : Byte)).length + 5 ≤ 512 :=
  ⟨by decide +kernel, rfl, rfl, rfl, rfl, by decide +kernel⟩

theorem witness_FrameOnTheLinkIsTheCommand :
    (Instr.songArm 1 0).wf = true ∧ (Instr.songArm 1 0).kind ≠ none ∧ s0.link.isOpen = true := by decide +kernel

/-- RXD high and a framer in a state, with one byte of room left. -/
def framing (f : Framer) : State :=
  inLink fun l => { l with framer := f, current := List.replicate 511 0 }

theorem witness_FramerTakesAByte :
    (framing .hunt).link.rxd = .high ∧ (framing .hunt).link.occupancy < 512 ∧ (0x5B : Byte) ≠ 0x5A#8 ∧
      (framing .hunt).link.framer = .hunt ∧ (framing .length).link.framer = .length ∧ 241 ≤ (241#8).toNat ∧
      (240#8).toNat ≤ 240 ∧ (framing (.kind 0)).link.framer = .kind 0 ∧ (framing (.kind 240)).link.framer = .kind 240 ∧
      (framing (.body 1)).link.framer = .body 1 ∧ (framing (.body 2)).link.framer = .body 2 ∧
      (framing (.check 2)).link.framer = .check 2 ∧ 2 ≤ 2 ∧ (framing (.check 1)).link.framer = .check 1 ∧
      (framing (.check 1)).link.occupancy < 512 ∧
      512 ≤ ((framing (.check 1)).mapLink fun l => { l with current := 0 :: l.current }).link.occupancy ∧
      (let full := fun f => (framing f).mapLink fun l => { l with current := 0 :: l.current }
       (full .hunt).link.rxd = .high ∧ 512 ≤ (full .hunt).link.occupancy ∧ (full .hunt).link.framer = .hunt ∧
         512 ≤ (full .length).link.occupancy ∧ (full .length).link.framer = .length ∧ (full (.kind 0)).link.framer ≠ .hunt) ∧
      (inLink fun l => { l with rxd := .low }).link.rxd ≠ .high := by decide +kernel

theorem witness_GapExpiryBreakAndReturnHigh :
    (inLink fun l => { l with gap := .running 0 }).link.gap = .running 0 ∧ s0.link.rxd ≠ .broken ∧
      (inLink fun l => { l with rxd := .broken }).link.rxd = .broken ∧
      (inLink fun l => { l with gap := .suspended }).link.gap = .suspended ∧ s0.link.gap ≠ .suspended := by
  decide +kernel

/-- A frame waits in the buffer. -/
def waiting (f : InFrame) : State := inLink fun l => { l with ended := [f] }

theorem witness_FrameTakenIsAnsweredByTheLinkPort :
    let cut : InFrame := { bytes := [0x5A], truncated := true }
    let bad : InFrame := { bytes := [0x5A, 0, 1, 0, 0], truncated := false }
    let zero : InFrame := { bytes := frameBytes 0 [], truncated := false }
    let high : InFrame := { bytes := frameBytes 0x22 [], truncated := false }
    let short : InFrame := { bytes := frameBytes 0x04 [1], truncated := false }
    (∀ f ∈ [cut, bad, zero, high, short], (waiting f).link.slot = none ∧ (waiting f).link.resetDue = false ∧
        (waiting f).link.ended = f :: [] ∧ (waiting f).song.ends = [] ∧ (waiting f).link.held = []) ∧
      cut.truncated = true ∧ bad.check ≠ be16 (crc16 bad.covered) ∧ zero.check = be16 (crc16 zero.covered) ∧
      zero.kind = some 0 ∧ high.check = be16 (crc16 high.covered) ∧ high.kind = some 0x22 ∧ 0x21 < (0x22#8).toNat ∧
      short.check = be16 (crc16 short.covered) ∧ short.kind = some 0x04 ∧
      decodeRequest 0x04 short.payload = .badLength := by decide +kernel

/-- R187: a fixed length, the counts at both ends of a counted request, and LINE_BASE_SET's range. -/
theorem test_lengthsOfRequests :
    (∀ n ∈ [0, 2], decodeRequest 0x06 (List.replicate n 0) = .badLength) ∧
      decodeRequest 0x06 [0] = .request (.calibrate 0) ∧ decodeRequest 0x09 [] = .badLength ∧
      decodeRequest 0x09 (0 :: []) = .badLength ∧ decodeRequest 0x09 (1 :: List.replicate 13 0) = .badLength ∧
      decodeRequest 0x09 (1 :: List.replicate 14 0) = .request (.tempoPut [⟨0, 0, 0, 0, 0⟩]) ∧
      decodeRequest 0x09 (17 :: List.replicate 238 0) = .badLength ∧
      decodeRequest 0x0C [0] = .request (.ladderSet []) ∧ decodeRequest 0x20 [7] = .badLength ∧
      decodeRequest 0x20 [7, 1] = .request (.lineBaseSet 7 [1]) ∧
      decodeRequest 0x20 (List.replicate 50 0) = .badLength ∧ decodeRequest 0 [] = .unknownKind ∧
      decodeRequest 0x22 [] = .unknownKind := by decide +kernel

/-- A reply. -/
def reply0 : Reply := { kind := 0x81, payload := [0], thenReset := false }

theorem witness_ReplySlotAndTransmitter :
    s0.link.isOpen = true ∧ s0.link.tx = none ∧
      (let s := inLink fun l => { l with slot := some reply0, tx := some (.reply reply0), loss := 1 }
       s.link.tx = some (.reply reply0) ∧ reply0.thenReset = false ∧ s.link.resetDue = false ∧ s.link.ended = [] ∧
         0 < s.link.loss) ∧
      (let s := inLink fun l => { l with tx := some (.lost 1), reports := [.notice 0 .clockLost] }
       s.link.tx = some (.lost 1) ∧ s.link.slot = none ∧ s.link.loss = 0 ∧
         s.link.reports = .notice 0 .clockLost :: [] ∧ s.link.resetDue = false ∧ s.link.ended = []) ∧
      (let s := inLink fun l =>
         { l with slot := some reply0, tx := some (.report (.notice 0 .clockLost)), ended := [{ bytes := [], truncated := true }] }
       s.link.tx = some (.report (.notice 0 .clockLost)) ∧ s.link.slot = some reply0 ∧ s.link.resetDue = false ∧
         s.link.ended ≠ []) ∧
      ({ reply0 with thenReset := true } : Reply).thenReset = true ∧
      (inLink fun l => { l with resetDue := true }).link.resetDue = true ∧
      (let waiting := inLink fun l => { l with ended := [{ bytes := [], truncated := true }] }
       waiting.link.slot = none ∧ waiting.link.ended ≠ [] ∧ s0.link.slot = none ∧ s0.link.ended = [] ∧
         s0.link.resetDue = false ∧
         (inLink fun l => { l with slot := some reply0 }).link.slot = some reply0) := by decide +kernel

theorem witness_ReportOfferedToTheQueueAndItsPins :
    let idle := fun n loss => inLink fun l => { l with reports := List.replicate n (.notice 0 .clockLost), loss := loss }
    let busy := fun n => (idle n 0).mapLink fun l => { l with tx := some (.lost 1) }
    let free := fun s : State =>
      decide (s.link.tx = none ∧ s.link.slot = none ∧ s.link.resetDue = false ∧ s.link.ended = [])
    s0.link.mask.getLsbD (Notice.measure 1).code = false ∧ s0.link.mask.getLsbD Notice.clockLost.code = true ∧
      (inLink fun l => { l with mask := 0x03FFFF }).link.mask.getLsbD 4 = true ∧
      (busy 63).link.reports.length + 1 ≤ 64 ∧ 64 < (busy 64).link.reports.length + 1 ∧
      (busy 55).link.reports.length + 9 ≤ 64 ∧ 64 < (busy 56).link.reports.length + 9 ∧
      (∀ n ∈ [55, 56, 63, 64], free (busy n) = false ∧ free (idle n 0) = true) ∧
      (free ((idle 64 0).mapLink fun l => { l with slot := some reply0 }) = false ∧
        free ((idle 64 0).mapLink fun l => { l with resetDue := true }) = false ∧
        free ((idle 64 0).mapLink fun l => { l with ended := [{ bytes := [], truncated := true }] }) = false) ∧
      0 < (idle 64 3).link.loss ∧ (idle 56 0).link.loss = 0 ∧
      (idle 56 0).link.reports = .notice 0 .clockLost :: List.replicate 55 (.notice 0 .clockLost) ∧
      s0.outbox = none ∧ (s0.withOutbox (some [])).outbox = some [] := by decide +kernel

/-- R180: of an offer to a full queue beside an idle transmitter, both orders. -/
theorem test_offerBesideTheTaking :
    let full := fun c loss =>
      { inLink (fun l => { l with reports := List.replicate 64 (.notice 0 .clockLost), loss := loss }) with choices := [c] }
    let offered := fun c loss => ((full c loss).offer (.notice 5 .clockLost)).link
    (offered 0 0).loss = 1 ∧ (offered 0 0).tx = none ∧ (offered 1 0).loss = 0 ∧
      (offered 1 0).tx = some (.report (.notice 0 .clockLost)) ∧ (offered 1 0).reports.getLast? = some (.notice 5 .clockLost) ∧
      (offered 1 3).tx = some (.lost 3) ∧ (offered 1 3).loss = 1 ∧ (offered 1 3).reports.length = 64 := by
  decide +kernel

theorem witness_SystemResetEventResetsEveryBlock :
    s0.link.resetDue = false ∧ (inLink fun l => { l with resetDue := true }).link.resetDue = true := by decide +kernel

theorem witness_ready : s0.ready := ⟨by decide +kernel, rfl, rfl, rfl⟩

/-- A state with the link port of reset and no end event on its way is ready. -/
theorem readyOf {s : State} (link : s.link = s0.link) (ends : s.song.ends = []) (outbox : s.outbox = none := by rfl) :
    s.ready :=
  ⟨by rw [link]; decide +kernel, ends, by rw [link]; rfl, outbox⟩

/-- The witness for IdentifyIsAnsweredOk and for the ready states of every other request of a state right after reset. -/
theorem witness_IdentifyIsAnsweredOk : s0.ready := witness_ready

theorem witness_LinkPortRequestsAndHowARequestArrives :
    (s0.ready ∧ (∃ i, 18 ≤ i ∧ (0x040000#24).getLsbD i = true) ∧ ∀ i < 24, 18 ≤ i → (0x03FFFF#24).getLsbD i = false) ∧
    ((Instr.lineBaseSet 0 []).kind ≠ none ∧ (Instr.lineBaseSet 0 []).wf = false ∧
      (inLink fun l => { l with framer := .length }).link.isOpen = false) := by
  refine ⟨?_, ?_⟩
  · exact ⟨witness_ready, ⟨18, by decide⟩, by decide⟩
  · decide +kernel

/-! Chapter 01 -/

theorem witness_TempoClearResult :
    s0.ready ∧ (inSong .halted).ready ∧ (playing1 0 [tap 0 0]).ready ∧ (inSong .halted).songActive ∧
      ((playing1 0 [tap 0 0]).station 1).queue ≠ [] ∧ s0.song.state = .stopped ∧
      (inSong .finished).song.state = .finished ∧ ∀ k, (s0.station k).queue = [] := by
  refine ⟨witness_ready, readyOf rfl rfl, readyOf rfl rfl, ?_⟩
  unfold State.songActive
  decide +kernel

/-- A tempo map of n segments. -/
def mapOf (n : Nat) : State := s0.mapClock fun c => { c with map := List.replicate n beat0 }

theorem witness_TempoPutAndItsSegments :
    ((mapOf 48).ready ∧ 1 ≤ (List.replicate 16 beatRec).length ∧ (List.replicate 16 beatRec).length ≤ 16 ∧
      ¬ (mapOf 48).songActive ∧ (inSong .running).songActive ∧ (∀ k, ((mapOf 49).station k).queue = []) ∧
      64 < (mapOf 49).clock.map.length + (List.replicate 16 beatRec).length ∧
      (mapOf 48).clock.map.length + (List.replicate 16 beatRec).length ≤ 64 ∧
      appendSegments 0 [] [beatRec] 0 = .ok [beat0] ∧ checkSegment 0 (some beat0) beatRec = .error .duplicate ∧
      checkSegment 0 none beatRec = .ok beat0 ∧ ([] : List Segment).getLast? = none ∧
      [beat0].getLast? = some beat0) ∧
    ((¬ ((65535#32).toNat ≥ 65536)) ∧ 65536 ≤ (65536#32).toNat ∧ 1 ≤ (1#8).toNat ∧ (16#8).toNat ≤ 16 ∧
      (16777216#32).toNat ≤ 16777216 ∧ (beat0.body = .beat 1572864000 4) ∧ beat0.startTick < (1#32).toNat ∧
      (500 : Int) = beat0.startFrame + Int.ofNat (((1#32).toNat - beat0.startTick) * 1572864000 / 3145728) ∧
      (2147483647 : Int) ≤ 2147483647) := by
  refine ⟨?_, ?_⟩
  · refine ⟨readyOf rfl rfl, ?_⟩
    unfold State.songActive
    decide +kernel
  · decide +kernel

/-- The BEAT of 500 frames a tick, then a STOP at tick 8. -/
def beatStop : List Segment := [beat0, { startTick := 8, startFrame := 4000, body := .stop 100 }]

/-- R9: a BEAT, then a STOP. -/
theorem test_tempoMapOk : TempoMapOk beatStop := by
  refine ⟨fun seg h => ?_, fun seg h => ?_, ?_⟩
  · rcases List.mem_cons.mp h with rfl | h
    · exact ⟨by simp [SegmentBody.legal, beat0], by decide⟩
    · cases List.mem_singleton.mp h
      exact ⟨by simp [SegmentBody.legal], by decide⟩
  · cases Option.mem_some.mp h
    exact ⟨rfl, rfl⟩
  · exact .cons_cons ⟨by decide, by decide +kernel⟩ (.singleton _)

theorem witness_TickConversionAndMeasurePulses :
    let stop : Segment := { startTick := 8, startFrame := 4000, body := .stop 100 }
    (TempoMapOk beatStop ∧ convert beatStop 7 = .frame 3500 ∧ convert beatStop 8 = .frame 4000 ∧
      convert beatStop 9 = .frame 4000) ∧
    (∀ x ∈ [beat0], x.startTick < 8) ∧ stop.startTick = 8 ∧
      ((beat0.startTick < 7 ∧ (∀ x ∈ ([] : List Segment), x.startTick ≠ 7)) ∧ ∀ x ∈ [stop], 7 < x.startTick) ∧
      (3500 : Int) = beat0.startFrame + Int.ofNat ((7 - beat0.startTick) * 1572864000 / 3145728) ∧
      ∀ seg ∈ [beat0, stop], ∀ fpb beats, seg.body = .beat fpb beats → 1 ≤ fpb ∧ 1 ≤ beats := by
  refine ⟨⟨test_tempoMapOk, by decide +kernel⟩, by decide, rfl, by decide, by decide +kernel, fun seg h fpb beats e => ?_⟩
  rcases List.mem_cons.mp h with rfl | h
  · cases e; decide
  · cases List.mem_singleton.mp h; cases e

/-- R12, R13: a pulse every 192 ticks of the first segment, none in the STOP, and the count anew after it. -/
theorem test_firstPulse :
    let stop : Segment := { startTick := 192, startFrame := 96000, body := .stop 100 }
    let again : Segment := { beat0 with startTick := 192, startFrame := 96100 }
    let map := [beat0, stop, again]
    firstPulse [] 0 0 = none ∧ firstPulse [beat0] 0 (-5) = some { segment := 0, index := 0, frame := 0 } ∧
      firstPulse [beat0] 0 1 = some { segment := 0, index := 1, frame := 96000 } ∧
      firstPulse [beat0] 0 2147483647 = none ∧ firstPulse map 0 0 = some { segment := 0, index := 0, frame := 0 } ∧
      firstPulse map 0 1 = some { segment := 2, index := 0, frame := 96100 } ∧
      firstPulse map 0 96101 = some { segment := 2, index := 1, frame := 192100 } ∧
      firstPulse [beat0, stop] 0 1 = none := by decide +kernel

theorem witness_WclkEdgesOutsideTheStart :
    s0.song.state = .stopped ∧ (inSong .armed).song.latch = false ∧
      (let s := (playing1 99 []).mapSong fun g => { g with state := .halted }
       s.song.state = .halted ∧ s.clock.watch = .present) ∧
      (playing1 99 []).song.state = .running ∧ (playing1 99 []).clock.nextPulse = none ∧
      (let s := (playing1 99 []).mapClock fun c => { c with nextPulse := some { segment := 0, index := 0, frame := 100 } }
       s.clock.nextPulse = some { segment := 0, index := 0, frame := 100 } ∧
         (100 : Int) = (s.clock.songTime + 1).toInt) := by decide +kernel

/-- Station 1 PLAYING with a pulse placed at a frame. -/
def withPulse (time : Int) (frame : Int) : State :=
  (playing1 time []).mapClock fun c => { c with nextPulse := some { segment := 0, index := 0, frame := frame } }

theorem witness_CountedEdgeIsTakenInFourPhases :
    ((playing1 99 []).song.state = .running ∧ (playing1 99 []).clock.nextPulse = none ∧
        (withPulse 99 101).clock.nextPulse = some { segment := 0, index := 0, frame := 101 } ∧
        (101 : Int) ≠ ((withPulse 99 101).clock.songTime + 1).toInt ∧
        (100 : Int) = ((withPulse 99 100).clock.songTime + 1).toInt) ∧
      (∃ (f : Entry → State → State) (take : Nat → State → State),
        (∀ n t e, (t.station 1).state = .playing → (t.station 1).entry? n = some e → take n t = f e t) ∧
        ∀ n t, ((t.station 1).state ≠ .playing ∨ (t.station 1).entry? n = none) → take n t = t) ∧
      (let e := { tap 0 10000 with state := .queued }
       (tap 0 10000).state ≠ .queued ∧ e.state = .queued ∧ e.isStep = true ∧
         (playing1 3519 [e]).clock.songTime.toInt < e.openFrame s0.windows ∧
         e.frame - Int.ofNat s0.windows.w4 ≤ (playing1 3520 [e]).clock.songTime.toInt ∧
         e ∈ ((playing1 3520 [e]).station 1).queue ∧
         (((playing1 3520 [e]).station 1).queue.map Entry.seq).Nodup) := by
  refine ⟨by decide +kernel, ?_, by decide +kernel⟩
  refine ⟨State.openEvent 1, fun n t =>
    if (t.station 1).state = .playing then
      match (t.station 1).entry? n with
      | some e => t.openEvent 1 e
      | none => t
    else t, ?_, ?_⟩
  · intro n t e h h'
    simp only [h, h', if_true]
  · intro n t h
    rcases h with h | h
    · simp only [h, if_false]
    · simp only [h, ite_self]

/-- An ARMED song with the latch set and a start frame. -/
def latched (start : Int) (map : List Segment) : State :=
  { s0 with song := { s0.song with state := .armed, latch := true, startFrame := start },
            clock := { s0.clock with map := map } }

theorem witness_StartEdge :
    (latched (-2147483648) []).song.state = .armed ∧ (latched (-2147483648) []).song.latch = true ∧
      -2147483648 ≤ (latched (-2147483648) []).song.startFrame ∧
      (latched 2147483647 []).song.startFrame ≤ 2147483647 ∧
      firstPulse (latched (-2147483648) []).clock.map 0 (-2147483648) = none ∧
      firstPulse (latched 0 [beat0]).clock.map 0 0 = some { segment := 0, index := 0, frame := 0 } ∧
      firstPulse (latched 2147483647 []).clock.map 0 2147483647 = none := by decide +kernel

/-- A calibration job on group 1. -/
def calibrating : State :=
  s0.mapScanner fun sc => { sc with groups := sc.groups.set 1 { PanelGroup.reset with
    job := some { rounds := 0, skip := false, lanes := Vector.replicate 9 { sum := 0, min := 0, max := 0, unsettled := false } } } }

/-- Station 1 armed and LOADED with a queue, in an ARMED song with the latch set and start frame 0. -/
def starting1 (queue : List Entry) : State :=
  let s := latched 0 [beat0]
  { s with song := { s.song with armed := 2#4 },
           stations := s.stations.set 1 { Station.reset with
             state := .loaded, queue := queue, context := { ScoreContext.zero with life := 1 } },
           choices := List.replicate 12 0 }

/-- An END_MARK. -/
def endMark (seq : Nat) (frame : Int) : Entry := { tap seq frame with body := .endMark, state := .queued }

theorem witness_StationsTakeTheStartEdge :
    ((starting1 []).song.state = .armed ∧ (starting1 []).song.latch = true) ∧
      (let ending := fun (s : State) =>
         (s.station 1).queue ≠ [] ∧ ∀ e ∈ (s.station 1).queue, e.body = .endMark ∧ e.frame ≤ s.clock.songTime.toInt
       ending (starting1 [endMark 0 0]) ∧ ¬ ending (starting1 [endMark 0 1]) ∧ ¬ ending (starting1 []) ∧
         ¬ ending (starting1 [endMark 0 0, tap 1 0])) ∧
      (s0.scanner.groups[1]).job = none ∧ (calibrating.scanner.groups[1]).job ≠ none ∧
      s0.clock.nextPulse = none ∧ (withPulse 99 100).clock.nextPulse = some { segment := 0, index := 0, frame := 100 } ∧
      (100 : Int) ≠ (withPulse 99 100).clock.songTime.toInt ∧ (100 : Int) = (withPulse 100 100).clock.songTime.toInt ∧
      ((inSong .running).song.state = .running ∧
        ∀ k : StationId, (inSong .running).song.armed.getLsbD k.val = true →
          ((inSong .running).station k).state ≠ .playing) ∧
      s0.song.state ≠ .running ∧ (playing1 0 []).song.armed.getLsbD 1 = true ∧
      ((playing1 0 []).station 1).state = .playing := by decide +kernel

/-- R15, R139: the pulse of the start frame finds the song RUNNING, though its one station ends at the start edge. -/
theorem test_pulseOfTheStartFrame :
    let s := (starting1 [endMark 0 0]).mapSong fun g => { g with abortSet := { AbortSet.empty with atMeasure := true } }
    (ex .wclkEdge s).song.cause = .aborted ∧ (ex .wclkEdge s).clock.measure = 1 ∧
      (ex .wclkEdge (starting1 [endMark 0 0])).song.cause = .complete ∧
      ((ex .wclkEdge s).station 1).state = .cleared := by decide +kernel

/-- R106: a station that fails in the first phase of its start edge leaves a due END_MARK untaken. -/
theorem test_failureLeavesTheEndMark :
    let mine : Entry := { mine4 .queued with frame := 0 }
    let down := Scanner.setContact (panelOf 1 4) .down
    let t := ex .wclkEdge ((starting1 [mine, endMark 4 0]).mapScanner down)
    (t.station 1).state = .failed ∧ (t.station 1).endPassed = false := by decide +kernel

/-- R102: a mine whose window has closed at the start frame is avoided, with its panel DOWN. -/
theorem test_closedMineIsAvoided :
    let mine := fun f : Int => { mine4 .queued with frame := f }
    let start := fun f => ex .wclkEdge
      ((starting1 [mine f]).mapScanner (Scanner.setContact (panelOf 1 4) .down))
    ((start (-2160)).station 1).state = .playing ∧
      ((start (-2160)).station 1).counts[CountKind.minesAvoided.index] = 1 ∧
      ((start (-2159)).station 1).state = .failed := by decide +kernel

theorem witness_WatchTimerResumeEdgeAndHaltTimerExpiry :
    (playing1 99 []).clock.watchTimer = some 0 ∧ (playing1 99 []).song.state = .running ∧
      (let s := (playing1 99 []).mapSong fun g => { g with state := .halted }
       s.clock.watchTimer = some 0 ∧ s.song.state ≠ .running) ∧
      (inSong .halted).song.state = .halted ∧ (inSong .halted).clock.watch = .absent ∧
      (let s := (playing1 99 [tap 0 0]).mapSong fun g => { g with state := .halted, halt := .running 0 }
       s.song.state = .halted ∧ s.song.halt = .running 0 ∧ s.song.armed.getLsbD 1 = true ∧
         (s.station 1).state = .playing ∧ s.song.armed.getLsbD 0 = false) := by decide +kernel

/-- Station 1 PLAYING in a HALTED song whose watch is ABSENT. -/
def halted1 (time : Int) (queue : List Entry) (f : Station → Station) : State :=
  (((playing1 time queue).mapSong fun g => { g with state := .halted }).mapClock fun c =>
    { c with watch := .absent, watchTimer := none }).mapStation 1 f

theorem witness_EnginesTakeTheResume :
    let after := fun s : State =>
      let opened := (s.forEntries 1 (State.openEvent 1)).forEntries 1 (State.markerEvent 1)
      ((((opened.station 1).heldCloses.map HeldClose.seq).foldl (fun t n => t.examineAtResume 1 n) opened).station 1).state
    let s := halted1 16480 [tap 0 10000] fun st => { st with heldCloses := [{ seq := 0, waits := 0x10#9 }] }
    let fails := s.mapStation 1 fun st => { st with context := { st.context with life := 60 } }
    (s.song.state = .halted ∧ s.clock.watch = .absent) ∧ (s0.station 1).state ≠ .playing ∧
      ((s.station 1).state = .playing ∧ after s = .playing) ∧
      ((fails.station 1).state = .playing ∧ after fails ≠ .playing) ∧
      (let h := fun t => halted1 t [held4] fun st => { st with holds := [item4 .none] }
       ((h 12000).station 1).entry? 0 = some held4 ∧ held4.tailFrame ≤ (h 12000).clock.songTime.toInt ∧
         (h 11999).clock.songTime.toInt < held4.tailFrame ∧ ((h 0).station 1).entry? 1 = none) ∧
      (let left := fun queue => halted1 16480 queue fun st => { st with heldCloses := [{ seq := 0, waits := 0 }] }
       let members := fun s : State => (s.station 1).group (tap 0 10000)
       (∀ h ∈ (s.station 1).heldCloses, h.seq = 0 → h.waits ≠ 0) ∧
         (∀ queue ∈ [[], [tap 0 10000]], ((left queue).station 1).state = .playing ∧
           ((left queue).station 1).heldCloses = [{ seq := 0, waits := 0 }]) ∧
         ((left []).station 1).entry? 0 = none ∧ ((left [tap 0 10000]).station 1).entry? 0 = some (tap 0 10000) ∧
         (∃ x ∈ members (left [tap 0 10000]), x.state = .opened) ∧
         ((left [held4]).station 1).entry? 0 = some held4 ∧
         ∀ x ∈ ((left [held4]).station 1).group held4, x.state ≠ .opened) ∧
      (let c : ContactEvent := { station := 1, lane := 4, kind := .press, time := 0 }
       (s.station c.station).state = .playing ∧ c.kind = .press ∧
         ({ c with kind := .withdrawn } : ContactEvent).kind = .withdrawn ∧
         ({ c with kind := .release .fault } : ContactEvent).kind = .release .fault) := by decide +kernel

/-- R88: a lane that left PRESSING in the halt and is PRESSING again at the resume keeps no close held. -/
theorem test_heldItemAtTheResume :
    let s := (halted1 16480 [tap 0 10000] fun st =>
      { st with heldCloses := [{ seq := 0, waits := 0x10#9 }] }).mapScanner (Scanner.setContact (panelOf 1 4) .pressing)
    let bounced := ex .wclkEdge (s.takeContact { station := 1, lane := 4, kind := .withdrawn, time := 16480 })
    (((ex .wclkEdge s).station 1).queue = [tap 0 10000] ∧ ((ex .wclkEdge s).station 1).heldCloses.length = 1) ∧
      (bounced.station 1).queue = [] ∧ (bounced.station 1).heldCloses = [] ∧
      (bounced.station 1).counts[CountKind.missNotes.index] = 1 := by decide +kernel

/-- The station of a RESULT report. -/
def resultStation : Report → Option StationId
  | .result r => some r.station
  | .notice _ _ => none

/-- R83, R180: of two MISSes each that two stations give at one edge, the reports fall in any interleaving. -/
theorem test_reportsOfOneEdgeInterleave :
    let taps := [tap 0 10000, { tap 1 10000 with body := .tap 5 5 }]
    let s := fun choices =>
      { (playing1 16479 taps).mapStation 0 fun _ => (playing1 16479 taps).station 1 with choices := choices }
    let sent := fun choices =>
      let l := (ex .wclkEdge (s choices)).link
      ((match l.tx with | some (.report r) => [r] | _ => []) ++ l.reports).map resultStation
    sent [0, 0, 1, 0] = [some 0, some 1, some 0, some 1] ∧ sent [0, 0, 0] = [some 0, some 0, some 1, some 1] ∧
      sent [0, 1, 0, 1] = [some 1, some 0, some 1, some 0] ∧ sent [1, 0, 1, 1] = [some 1, some 0, some 0, some 1] := by
  decide +kernel

/-! Chapter 02 -/

theorem witness_ScannerRequests :
    (s0.ready ∧ (500#16 = 500#16 ∧ (499#16 : Half) ≠ 500#16 ∧ (499#16 : Half) ≠ 1000#16 ∧ (499#16 : Half) ≠ 2000#16) ∧
      3 < (4#8).toNat ∧ (0xFE00#16).extractLsb' 0 9 = 0 ∧ 1023 < (1024#16).toNat ∧ 8 < (9#8).toNat ∧
      (let r : PanelRec := ⟨3, 0x100, 1023, 1022, 8, 1⟩
       r.station.toNat ≤ 3 ∧ r.laneMask.extractLsb' 0 9 ≠ 0 ∧ 1 ≤ r.p.toNat ∧ r.p.toNat ≤ 1023 ∧ 1 ≤ r.q.toNat ∧
         r.q.toNat < r.p.toNat ∧ 1 ≤ r.dp.toNat ∧ r.dp.toNat ≤ 8 ∧ 1 ≤ r.dr.toNat ∧ r.dr.toNat ≤ 8)) ∧
    (s0.ready ∧ (inStation .playing).ready ∧ calibrating.ready ∧ 3 < (4#8).toNat ∧ (1#8).toNat = (1 : StationId).val ∧
      ((inStation .playing).station 1).state = .playing ∧ (calibrating.station 1).state ≠ .playing ∧
      (calibrating.scanner.groups[1]).job ≠ none ∧ (s0.station 1).state ≠ .playing ∧
      (s0.scanner.groups[1]).job = none) := by
  refine ⟨?_, ?_⟩
  · exact ⟨witness_ready, by decide +kernel⟩
  · refine ⟨witness_ready, readyOf rfl rfl, readyOf rfl rfl, ?_⟩
    decide +kernel

theorem witness_ScanRounds :
    s0.scanner.round = none ∧
      (s0.mapScanner fun sc => { sc with round := some { stamp := 0, void := false } }).scanner.round =
        some { stamp := 0, void := false } ∧
      (s0.mapScanner fun sc => { sc with round := some { stamp := 0, void := true } }).scanner.round =
        some { stamp := 0, void := true } := by decide +kernel

/-- Group 1 with a job after some rounds. -/
def jobAt (rounds : Nat) (skip : Bool) : State :=
  s0.mapScanner fun sc => { sc with
    round := some { stamp := 77, void := false },
    groups := sc.groups.set 1 { PanelGroup.reset with
      job := some { rounds := rounds, skip := skip,
                    lanes := Vector.replicate 9 { sum := 0, min := 0, max := 0, unsettled := false } } } }

theorem witness_RoundEndOfEveryChannelAndDevice :
    (s0.scanner.groups[1]).job = none ∧ (jobAt 62 false).scanner.groups[1].job.isSome = true ∧
      ((jobAt 62 true).scanner.groups[1].job.map CalJob.skip) = some true ∧ 62 + 1 < 64 ∧ 64 ≤ 63 + 1 ∧
      (jobAt 63 false).scanner.round = some { stamp := 77, void := false } ∧
      (s0.song.ends = [] ∧ (s0.mapSong fun g => { g with ends := [(1, .cleared)] }).song.ends ≠ []) ∧
      (let e : ContactEvent := { station := 1, lane := 4, kind := .press, time := 0 }
       (∃ x ∈ [e], panelOf x.station x.lane = 13) ∧ ∀ x ∈ [e], panelOf x.station x.lane ≠ 12) := by decide +kernel

/-- R31: CALIBRATED comes after the other items of its station, whatever the order of these. -/
theorem test_calibratedAfterContactWork :
    let s := fun c => { (jobAt 63 false).mapScanner fun sc =>
      { sc with channels := sc.channels.set 13 { sc.channels[13] with contact := .down, stuckCount := 16, q := 1 } } with
        choices := List.replicate 6 c }
    let data : RoundData := ⟨{ ack := 0x50, data := 0 }, { ack := 0x51, data := (9#80) <<< 20 }, { ack := 0x52, data := 0 },
      { ack := 0x53, data := 0 }, { ack := 0x54, data := 0 }⟩
    ∀ c ∈ [0, 1], (ex (.scanRoundEnd data) (s c)).link.tx = some (.report (.notice 0 (.panelStuck 1 4 77))) ∧
      ((ex (.scanRoundEnd data) (s c)).link.reports.map Report.payload).map List.length = [13] := by decide +kernel

/-- A channel in a contact state. -/
def contactIn (k : Contact) (dwell : Nat) (crossing : Option Int) : Channel :=
  { Channel.reset with contact := k, dwell := dwell, crossing := crossing }

theorem witness_ContactStateMachineAndStuckPanels :
    let level := fun (r : Nat) (c : Channel) => (c.withReading r).level
    let up := contactIn .up 0 none
    let pressing := contactIn .pressing 1 (some 5)
    let down := contactIn .down 0 none
    let releasing := contactIn .releasing 2 (some 5)
    let stuck := { contactIn .stuck 2 none with level := 119 }
    (level 179 up < up.p ∧ up.p ≤ level 180 up ∧ ({ up with dp := 1 } : Channel).dp = 1 ∧ up.dp ≠ 1) ∧
      (pressing.p ≤ level 180 pressing ∧ pressing.dp ≤ pressing.dwell + 1 ∧ pressing.crossing = some 5 ∧
        level 179 pressing < pressing.p ∧ ({ pressing with dp := 3 } : Channel).dwell + 1 < 3) ∧
      (down.q ≤ level 120 down ∧ level 119 down < down.q ∧ down.dr ≠ 1 ∧ ({ down with dr := 1 } : Channel).dr = 1) ∧
      (level 119 releasing < releasing.q ∧ releasing.dr ≤ releasing.dwell + 1 ∧ releasing.crossing = some 5 ∧
        releasing.q ≤ level 120 releasing ∧ (contactIn .releasing 1 (some 5)).dwell + 1 < releasing.dr) ∧
      (stuck.contact = .stuck ∧ stuck.level < stuck.q ∧ stuck.dr ≤ stuck.dwell + 1 ∧
        (contactIn .stuck 1 none).dwell + 1 < stuck.dr ∧ ({ stuck with level := 120 } : Channel).q ≤ 120) ∧
      16 ≤ ({ down with stuckCount := 16 } : Channel).stuckCount ∧ ({ down with stuckCount := 15 } : Channel).stuckCount < 16 ∧
      (contactIn .fault 0 none).contact = .fault ∧
      (({ down with stuckCount := 16 } : Channel).contact = .down ∧
        ({ releasing with stuckCount := 16 } : Channel).contact = .releasing ∧
        ¬ ((pressing.contact = .down ∨ pressing.contact = .releasing) ∧ 16 ≤ pressing.stuckCount) ∧
        ¬ ((down.contact = .down ∨ down.contact = .releasing) ∧ 16 ≤ ({ down with stuckCount := 15 } : Channel).stuckCount)) := by decide +kernel

theorem witness_DevicePresence :
    Channel.reset.stuckDue = false ∧ Device.reset.presence = .present ∧ Device.reset.unanswered < 2 ∧
      2 ≤ ({ Device.reset with unanswered := 2 } : Device).unanswered ∧
      (let d : Device := { presence := .absent, unanswered := 3, answered := 7 }
       d.presence = .absent ∧ d.answered = 7) ∧
      (let d : Device := { presence := .absent, unanswered := 3, answered := 6 }
       d.presence = .absent ∧ d.answered < 7) := by decide +kernel

/-! Chapter 03 -/

theorem witness_StationSetAndLaneMaps :
    s0.ready ∧ (inStation .playing).ready ∧ (playing1 0 []).ready ∧ 3 < (4#8).toNat ∧
      (1#8).toNat = (1 : StationId).val ∧ ((inStation .playing).station 1).state ≠ .vacant ∧
      ((inStation .playing).station 1).state ≠ .loaded ∧ (s0.station 1).state = .vacant ∧
      (let s := (inStation .loaded).mapStation 1 fun st => { st with queue := [tap 0 0] }
       (s.station 1).state = .loaded ∧ (s.station 1).queue ≠ []) ∧
      (((inStation .loaded).station 1).state = .loaded ∧ ((inStation .loaded).station 1).queue = []) ∧
      (let r : StationRec := ⟨1, 0x100, 7, 1, 1, 16777216⟩
       r.laneMask.extractLsb' 0 9 ≠ 0 ∧ r.laneMap.toNat = LaneMap.mirrorAnti.code ∧ r.noFail.toNat ≤ 1 ∧
         r.reportLevel.toNat ≤ 1 ∧ 1 ≤ r.lookahead.toNat ∧ r.lookahead.toNat ≤ 16777216) ∧
      7 < (8#8).toNat ∧ 16777216 < (16777217#32).toNat := by
  refine ⟨witness_ready, readyOf rfl rfl, readyOf rfl rfl, ?_⟩
  decide +kernel

theorem witness_ChartOpenCloseAndStationClear :
    (s0.ready ∧ (inStation .loaded).ready ∧ (mapOf 1).ready ∧ 3 < (4#8).toNat ∧ 1 < (2#8).toNat ∧
      (1#8).toNat = (1 : StationId).val ∧ (1#8).toNat ≤ 1 ∧ ((inStation .loaded).station 1).state = .loaded ∧
      (s0.station 1).state ≠ .loaded ∧ (s0.station 1).state ≠ .playing ∧ s0.clock.map = [] ∧ (mapOf 1).clock.map ≠ [] ∧
      (s0.station 1).state = .vacant ∧ ((inStation .aborted).station 1).state ≠ .vacant ∧
      ((inStation .aborted).station 1).state ≠ .playing) ∧
    (s0.ready ∧ (playing1 0 []).ready ∧ 3 < (4#8).toNat ∧ (1#8).toNat = (1 : StationId).val ∧
      (s0.station 1).state ≠ .playing ∧ ((playing1 0 []).station 1).state = .playing ∧
      (playing1 0 []).song.state = .running ∧
      (∀ j, j ≠ 1 → (playing1 0 []).song.armed.getLsbD j.val = true → ((playing1 0 []).station j).state ≠ .playing) ∧
      (let two := ((playing1 0 []).mapStation 2 fun st => { st with state := .playing }).mapSong fun g =>
         { g with armed := 6#4 }
       (two.station 1).state = .playing ∧
         ∃ j, j ≠ 1 ∧ two.song.armed.getLsbD j.val = true ∧ (two.station j).state = .playing)) := by
  refine ⟨?_, ?_⟩
  · refine ⟨witness_ready, readyOf rfl rfl, readyOf rfl rfl, ?_⟩
    decide +kernel
  · refine ⟨witness_ready, readyOf rfl rfl, ?_⟩
    decide +kernel

/-- Station 1 LOADED under a map of 500 frames a tick. -/
def loaded1 : State := (inStation .loaded).mapClock fun c => { c with map := [beat0] }

/-- What the tap record becomes there. -/
def tapIn : Incoming := { kind := .tap, tick := 20, frame := 10000, body := .tap 4 4 }

theorem witness_NotesPutTakesRecordsInOrder :
    loaded1.ready ∧ 1 ≤ (List.replicate 23 tapRec).length ∧ (List.replicate 23 tapRec).length ≤ 23 ∧
      3 < (4#8).toNat ∧ (1#8).toNat = (1 : StationId).val ∧ (s0.station 1).state ≠ .loaded ∧
      (loaded1.station 1).state = .loaded ∧ (loaded1.station 1).endAccepted = false ∧
      ((playing1 0 []).station 1).endAccepted = true ∧
      (State.takeRecords 1 7 [tapRec] 0 (loaded1.withOutbox (some []))).2 = (1, none) ∧
      (State.takeRecords 1 7 [tapRec, tapRec] 0 (loaded1.withOutbox (some []))).2 = (1, some .duplicate) ∧
      loaded1.checkRecord 1 tapRec = .ok tapIn ∧ s0.checkRecord 1 tapRec = .error .noTempo := by
  refine ⟨readyOf rfl rfl, ?_⟩
  decide +kernel

theorem witness_ChartRecordChecks :
    let st := loaded1.station 1
    let made := fun r : NoteRec => incomingOf loaded1.clock.map (loaded1.station 1).laneMap r
    let late := fun t => (playing1 t []).mapStation 1 fun st => { st with endAccepted := false }
    let full := loaded1.mapStation 1 fun st => { st with queue := List.replicate 192 (tap 0 0) }
    let seen := loaded1.mapStation 1 fun st =>
      { st with intake := { st.intake with lastTick := some 20, lastLanes := 0x10#9, chordCount := 4,
                                           tails := st.intake.tails.set 4 (some 20), sealedTick := some 20 } }
    st.endAccepted = false ∧ ((playing1 0 []).station 1).endAccepted = true ∧ 4 < (5#8).toNat ∧ 8 < (9#8).toNat ∧
      7 < (8#8).toNat ∧ 4294967295 < 20 + (4294967276#32).toNat ∧ 20 + (4294967275#32).toNat ≤ 4294967295 ∧
      s0.clock.map = [] ∧ convert loaded1.clock.map 20 = .frame 10000 ∧
      convert loaded1.clock.map 4294967295 = .outOfRange ∧
      (made tapRec = .ok tapIn ∧
        made ⟨1, 8, 20, 4⟩ = .ok { kind := .hold, tick := 20, frame := 10000, body := .hold 8 8 24 12000 } ∧
        made ⟨2, 0, 20, 0⟩ = .ok { kind := .mine, tick := 20, frame := 10000, body := .mine 0 0 } ∧
        made ⟨3, 7, 20, 0⟩ = .ok { kind := .cueMark, tick := 20, frame := 10000, body := .cueMark 7 } ∧
        made ⟨4, 9, 20, 0⟩ = .ok { kind := .endMark, tick := 20, frame := 10000, body := .endMark }) ∧
      (incomingOf (late 0).clock.map ((late 0).station 1).laneMap tapRec = .ok tapIn ∧
        incomingOf seen.clock.map (seen.station 1).laneMap tapRec = .ok tapIn) ∧
      st.laneMask.getLsbD 4 = true ∧
      ((loaded1.mapStation 1 fun st => { st with laneMask := 0x0EF#9 }).station 1).laneMask.getLsbD 4 = false ∧
      (seen.station 1).intake.lastTick = some 20 ∧ (seen.station 1).intake.lastLanes.getLsbD 4 = true ∧
      (seen.station 1).intake.tails[4] = some 20 ∧ 4 ≤ (seen.station 1).intake.chordCount ∧
      (seen.station 1).intake.sealedTick = some 20 ∧ st.intake.lastTick = none ∧ st.intake.tails[4] = none ∧
      st.intake.sealedTick ≠ some 20 ∧
      (((late 16480).station 1).state = .playing ∧
        10000 + Int.ofNat (late 16480).windows.w4 ≤ (late 16480).clock.songTime.toInt) ∧
      ¬ (10000 + Int.ofNat (late 16479).windows.w4 ≤ (late 16479).clock.songTime.toInt) ∧
      10000 + Int.ofNat (late 12160).windows.wm ≤ (late 12160).clock.songTime.toInt ∧
      ¬ (10000 + Int.ofNat (late 12159).windows.wm ≤ (late 12159).clock.songTime.toInt) ∧
      10000 < (late 10001).clock.songTime.toInt ∧ ¬ 10000 < (late 10000).clock.songTime.toInt ∧
      192 ≤ (full.station 1).queue.length ∧ st.queue.length < 192 := by decide +kernel

/-- Station 1 PLAYING with END-accepted clear, at a song time, with a last frame and a last close frame. -/
def hungry (time last close : Int) : State :=
  (playing1 time []).mapStation 1 fun st =>
    { st with endAccepted := false, intake := { st.intake with lastFrame := some last, lastClose := some close } }

theorem witness_StarvationFlagsAndNotices :
    (s0.station 1).state ≠ .playing ∧ ((playing1 0 []).station 1).endAccepted = true ∧
      (((hungry 10 0 0).station 1).state = .playing ∧ ((hungry 10 0 0).station 1).endAccepted = false ∧
        ((hungry 10 0 0).station 1).starving = false ∧ ((hungry 10 0 0).station 1).starved = false) ∧
      (let ahead := fun s : State => (s.station 1).intake.lastFrame.getD s.song.startFrame - s.clock.songTime.toInt
       let close := fun s : State => (s.station 1).intake.lastClose.getD s.song.startFrame
       (¬ ahead (hungry 10 96010 10) < 96000 ∧ ¬ close (hungry 10 96010 10) < 10) ∧
         (ahead (hungry 10 96009 10) < 96000 ∧ ¬ close (hungry 10 96009 10) < 10) ∧
         (¬ ahead (hungry 10 96010 9) < 96000 ∧ close (hungry 10 96010 9) < 10) ∧
         (ahead (hungry 10 96009 9) < 96000 ∧ close (hungry 10 96009 9) < 10)) ∧
      ((hungry 10 96009 9).starvingDue 1 = true ∧ (hungry 10 96009 9).starvedDue 1 = true) ∧
      ({ tapIn with kind := .endMark, body := .endMark } : Incoming).kind = .endMark := by decide +kernel

theorem witness_AcceptedRecordEntersTheQueue :
    (tapIn.kind = .tap ∧ tapIn.body = .tap 4 4) ∧ Station.reset.intake.lastTick ≠ some tapIn.tick ∧
      ({ Intake.empty with lastTick := some 20 } : Intake).lastTick = some tapIn.tick ∧
      (let n : Incoming := { kind := .hold, tick := 20, frame := 10000, body := .hold 4 4 24 12000 }
       n.kind = .hold ∧ n.body = .hold 4 4 24 12000) ∧
      (let st := { Station.reset with queue := [tap 0 10000],
                                      intake := { Intake.empty with lastTick := some 20, chordCount := 1 } }
       2 ≤ (st.accept s0.windows 7 tapIn).intake.chordCount ∧
         (Station.reset.accept s0.windows 7 tapIn).intake.chordCount < 2) ∧
      (let n : NoteKind → EntryBody → Incoming := fun kind body => { kind := kind, tick := 20, frame := 10000, body := body }
       ((n .mine (.mine 4 4)).kind = .mine ∧ (n .mine (.mine 4 4)).body = .mine 4 4) ∧
         ((n .cueMark (.cueMark 3)).kind = .cueMark ∧ (n .cueMark (.cueMark 3)).body = .cueMark 3) ∧
         (n .endMark .endMark).kind = .endMark ∧ (n .endMark .endMark).body = .endMark) ∧
      (let intake := fun (time : Int) (e : Entry) =>
         let s := playing1 time [e]
         (s.station 1).state = .playing ∧ s.song.state = .running ∧ (s.station 1).entry? e.seq = some e
       let step := { tap 0 10000 with state := .queued }
       let mark : EntryBody → Entry := fun body => { tap 0 50 with body := body, state := .queued }
       (intake 3519 step ∧ step.isStep = true ∧ (3519 : Int) < step.frame - Int.ofNat s0.windows.w4) ∧
         (intake 3520 step ∧ step.frame - Int.ofNat s0.windows.w4 ≤ 3520) ∧
         (intake 7839 (mine4 .queued) ∧ (mine4 .queued).isMine = true ∧
           (7839 : Int) < (mine4 .queued).frame - Int.ofNat s0.windows.wm) ∧
         (intake 7840 (mine4 .queued) ∧ (mine4 .queued).frame - Int.ofNat s0.windows.wm ≤ 7840) ∧
         (intake 49 (mark (.cueMark 3)) ∧ (49 : Int) < (mark (.cueMark 3)).frame) ∧
         (intake 50 (mark (.cueMark 3)) ∧ (mark (.cueMark 3)).frame = 50) ∧
         (intake 49 (mark .endMark) ∧ (49 : Int) < (mark .endMark).frame) ∧
         (intake 50 (mark .endMark) ∧ (mark .endMark).frame ≤ 50) ∧
         (s0.station 1).state ≠ .playing ∧ (inSong .halted).song.state ≠ .running ∧
         ((playing1 0 []).station 1).entry? 0 = none) := by decide +kernel

theorem witness_SharedTablesSet :
    (s0.ready ∧ (inSong .armed).ready ∧ (inSong .armed).songActive ∧ ¬ s0.songActive ∧
      (let r : WindowsRec := ⟨1, 2, 3, 4, 1, 16777216⟩
       1 ≤ r.w1.toNat ∧ r.w1.toNat < r.w2.toNat ∧ r.w2.toNat < r.w3.toNat ∧ r.w3.toNat < r.w4.toNat ∧
         1 ≤ r.wm.toNat ∧ 1 ≤ r.lg.toNat ∧ r.lg.toNat ≤ 16777216) ∧
      16777216 < (16777217#32).toNat ∧ (0#16).toNat < 1 ∧
      (let rungs : List RungRec := [⟨0, 16⟩, ⟨1, 255⟩]
       1 ≤ rungs.length ∧ rungs.length ≤ 8 ∧ (∀ r ∈ rungs.head?, r.threshold = 0) ∧
         ((rungs.map fun r => r.threshold.toNat).Pairwise (· < ·)) ∧ ∀ r ∈ rungs, 16 ≤ r.multiplier.toNat) ∧
      ¬ (List.replicate 9 (⟨0, 16⟩ : RungRec)).length ≤ 8) ∧
    (s0.ready ∧ (inSong .running).ready ∧ (inSong .running).songActive ∧ ¬ s0.songActive ∧
      (let r : ScoringRec := ⟨PerResult.all 0x8000, PerResult.all 0x03E8, 1, 1⟩
       (∀ kind ∈ [ResultKind.exact, .close, .fair, .rough, .miss, .holdOk, .holdLost, .mineHit],
           -1000 ≤ (r.deltas.get kind).toInt ∧ (r.deltas.get kind).toInt ≤ 1000) ∧
         1 ≤ r.lifeMax.toNat ∧ r.lifeMax.toNat ≤ 1000 ∧ 1 ≤ r.lifeStart.toNat ∧ r.lifeStart.toNat ≤ r.lifeMax.toNat) ∧
      ¬ (0x03E9#16).toInt ≤ 1000) := by
  refine ⟨?_, ?_⟩
  · refine ⟨witness_ready, readyOf rfl rfl, ?_⟩
    unfold State.songActive
    decide +kernel
  · refine ⟨witness_ready, readyOf rfl rfl, ?_⟩
    unfold State.songActive
    decide +kernel

theorem witness_RequestsThatRead :
    s0.ready ∧ 3 < (4#8).toNat ∧ (3#8).toNat = (3 : StationId).val ∧ (s0.station 3).stack = [] ∧
      ({ Station.reset with stack := [ScoreContext.zero] } : Station).stack = ScoreContext.zero :: [] ∧
      1 < (2#8).toNat :=
  ⟨witness_ready, by decide +kernel⟩

theorem witness_FieldsOfTheReadReplies :
    (s0.station 1).state = .vacant ∧ ((inStation .loaded).station 1).state = .loaded ∧
      ((inStation .playing).station 1).state = .playing ∧ ((inStation .cleared).station 1).state = .cleared ∧
      ((inStation .failed).station 1).state = .failed ∧ ((inStation .aborted).station 1).state = .aborted := by
  decide +kernel

/-- 11.9: the bytes of a RESULT, of a NOTICE with a station and of one with none, and of a LOST report. -/
theorem test_reportBytes :
    let r : ResultReport := { station := 1, kind := .miss, noteId := 0x0207, chartLane := 4, lanes := 0x110#9,
                              offset := none, songTime := -1, comboAfter := 3, displayedAfter := 5, lifeAfter := 6,
                              rungAfter := 2 }
    r.bytes = [1, 4, 2, 7, 4, 1, 0x10, 0, 0, 0, 0, 0, 255, 255, 255, 255, 0, 0, 0, 3, 0, 0, 0, 5, 0, 6, 2] ∧
      Report.payload (.notice 9 (.panelFault 2 3 0x100#9 10)) = [10, 2, 0, 0, 0, 9, 3, 1, 0, 0, 0, 0, 10] ∧
      Report.payload (.notice 9 (.cueDone 7 .loop)) = [16, 255, 0, 0, 0, 9, 7, 1] ∧
      TxFrame.bytes (.lost 258) = frameBytes 0xC2#8 [1, 2] := by decide +kernel

/-! Chapters 04 and 05 -/

theorem witness_ContactEventsAndThePressThatJudges :
    Windows.reset.w1 < Windows.reset.w2 ∧ Windows.reset.w2 < Windows.reset.w3 ∧
      (let s := playing1 10000 [tap 0 10000]
       (s.station 1).holdOn 4 = none ∧ (s.station 1).queue = [] ++ tap 0 10000 :: [] ∧
         (s.station 1).eligible s.windows 4 16480 (tap 0 10000) = true ∧
         (s.station 1).eligible s.windows 4 16481 (tap 0 10000) = false) ∧
      (let c : ContactKind → ContactEvent := fun kind => { station := 1, lane := 4, kind := kind, time := 0 }
       (s0.station (c .press).station).state ≠ .playing ∧
         ((playing1 0 []).station (c .press).station).state = .playing ∧ (playing1 0 []).song.state = .running ∧
         ((inSong .armed).song.state ≠ .running ∧ (inSong .armed).song.state ≠ .halted) ∧
         (c .press).kind = .press ∧ (c (.release .stuck)).kind = .release .stuck ∧ (c .withdrawn).kind = .withdrawn) ∧
      (((playing1 0 [held4]).mapStation 1 fun st => { st with holds := [item4 .none] }).station 1).holdOn 4 =
        some (item4 .none) := by decide +kernel

theorem witness_LoneTapJudgedOrMissed :
    (let s := playing1 16480 [tap 0 10000]
     (tap 0 10000).body = .tap 4 4 ∧ (tap 0 10000).state = .opened ∧ tap 0 10000 ∈ (s.station 1).queue ∧
       ((s.station 1).queue.map Entry.seq).Nodup ∧ (tap 0 10000).chord = none ∧
       (tap 0 10000).frame + Int.ofNat s.windows.w4 ≤ s.clock.songTime.toInt ∧ s.contactOf 1 4 ≠ .pressing ∧
       (s.station 1).carriedIn.getLsbD 4 = false ∧ (s.station 1).heldCloses = []) ∧
      (let s := (playing1 16480 [tap 0 10000]).mapScanner (Scanner.setContact (panelOf 1 4) .pressing)
       s.contactOf 1 4 = .pressing) ∧
      (playing1 16479 [tap 0 10000]).clock.songTime.toInt < 10000 + Int.ofNat s0.windows.w4 ∧
      (let g : Option ChordGroup := some { count := 2, lanes := 0x30#9 }
       let a : Entry := { tap 0 10000 with chord := g }
       let o : Entry := { tap 1 10000 with chord := g, body := .tap 5 5 }
       a ∈ [a, o] ∧ o ∈ [a, o] ∧ a.chord ≠ none ∧ o.isStep = true ∧ o.tick = a.tick ∧ o.seq ≠ a.seq ∧
         o.state = .opened ∧ ([a, o].map Entry.seq).Nodup) := by decide +kernel

/-- A chord of a TAP on lane 4 and a HOLD on lane 5, in some states. -/
def chord45 (first second : EntryState) : List Entry :=
  let g : Option ChordGroup := some { count := 2, lanes := 0x30#9 }
  [{ tap 0 10000 with chord := g, state := first },
    { tap 1 10000 with chord := g, state := second, body := .hold 5 5 24 12000 }]

/-- Station 1 PLAYING a chord of lanes 4 and 5 with the first close held. -/
def heldChord (first second : EntryState) (waits : LaneSet) : State :=
  (playing1 16480 (chord45 first second)).mapStation 1 fun st => { st with heldCloses := [{ seq := 0, waits := waits }] }

theorem witness_HeadsChordsAndHeldCloses :
    (let queue := chord45 (.judged .fair 3) .opened
     let s := playing1 10000 queue
     ((s.station 1).queue.map Entry.seq).Nodup ∧
       ∀ e ∈ queue, ∀ x ∈ queue.head?, ∀ y ∈ queue[1]?, e ∈ (s.station 1).queue ∧
         ((s.station 1).queue.filter fun z =>
           decide (z.seq = e.seq ∨ (e.chord ≠ none ∧ z.isStep = true ∧ z.tick = e.tick))) = x :: [y] ∧
         e.state ≠ .queued ∧ x.state ≠ .opened ∧ y.state = .opened ∧ x.seq ≠ y.seq) ∧
      (let s := playing1 16480 (chord45 .opened .opened)
       let pressing := s.mapScanner (Scanner.setContact (panelOf 1 5) .pressing)
       let members := chord45 .opened .opened
       (∀ e ∈ members, e.isStep = true ∧ e.frame + Int.ofNat s.windows.w4 ≤ s.clock.songTime.toInt) ∧
         (∀ x ∈ chord45 (.judged .fair 3) .holding, x.state ≠ .opened) ∧ (∃ x ∈ members, x.state = .opened) ∧
         (∃ e ∈ members, ∃ first ∈ members.head?, first.seq ≠ e.seq) ∧ (s.station 1).heldCloses = [] ∧
         (∃ h ∈ ((heldChord .opened .opened 0x20#9).station 1).heldCloses, h.seq = 0) ∧
         s.waitingLanes 1 members = 0 ∧ pressing.waitingLanes 1 members ≠ 0 ∧ (s.station 1).state = .playing) ∧
      (let s := playing1 10000 (chord45 .opened .opened)
       ((s.station 1).queue.map Entry.seq).Nodup ∧ (∀ x ∈ chord45 .opened .opened, x ∈ (s.station 1).queue) ∧
         ((s.station 1).holds.map fun h => h.lane.val).Pairwise (· < ·) ∧ s.contactOf 1 5 = .up ∧
         (∀ x ∈ chord45 .opened .opened, x.isHold = true → ∀ h ∈ [item4 .none], x.lane ≠ some h.lane) ∧
         (((chord45 .opened .opened).filter Entry.isHold).map Entry.lane).Nodup ∧
         (∃ x ∈ (chord45 .opened .opened)[1]?, x.body = .hold 5 5 24 12000) ∧
         ((chord45 .opened .opened).all Entry.isStep = true ∧
           (playing1 16479 (chord45 .opened .opened)).clock.songTime.toInt < 10000 + Int.ofNat s0.windows.w4) ∧
         (s.mapScanner (Scanner.setContact (panelOf 1 5) .releasing)).contactOf 1 5 = .releasing) ∧
      (let s := heldChord .opened .opened 0x20#9
       let held := fun s : State => ((s.station 1).heldCloses.filter fun h => h.waits.getLsbD 5).map HeldClose.seq
       let both := s.mapStation 1 fun st => { st with holds := [{ lane := 5, seq := 9, deadline := .held 3 }] }
       (s.station 1).carriedIn.getLsbD 5 = false ∧ held s ≠ [] ∧ held s0 = [] ∧ (s.station 1).holdOn 5 = none ∧
         held both ≠ [] ∧ (both.station 1).holdOn 5 = some { lane := 5, seq := 9, deadline := .held 3 } ∧
         ((s.mapStation 1 fun st => { st with carriedIn := 0x20#9 }).station 1).carriedIn.getLsbD 5 = true ∧
         ((s.station 1).heldCloses.map HeldClose.seq).Pairwise (· ≤ ·)) := by
  decide +kernel

/-- R89, log 42: a HOLD joins in lane order; on a lane that has an item, none joins. -/
theorem test_joinHold :
    joinHold (item4 .none) [{ lane := 2, seq := 7, deadline := .none }, { lane := 5, seq := 9, deadline := .none }] =
        [{ lane := 2, seq := 7, deadline := .none }, item4 .none, { lane := 5, seq := 9, deadline := .none }] ∧
      joinHold (item4 .none) [item4 (.pending 3)] = [item4 (.pending 3)] := by decide +kernel

theorem witness_ResultIsGivenWhilePlaying :
    (s0.station 1).state ≠ .playing ∧ ((playing1 0 []).station 1).state = .playing ∧
      (let s := (playing1 0 []).mapStation 1 fun st => { st with context := { st.context with life := 60 } }
       (applyResult s.scoring s.ladder (s.station 1).noFail .miss (s.station 1).context).failed = true) ∧
      (let s := playing1 0 []
       (applyResult s.scoring s.ladder (s.station 1).noFail .miss (s.station 1).context).failed = false ∧
         ((s.station 1).counts[CountKind.missNotes.index]).toNat + 1 ≤ 4294967295) ∧
      (let update := Station.without [0]
       ∀ st, (update st).state = st.state ∧ (update st).context = st.context ∧ (update st).noFail = st.noFail ∧
         (update st).counts = st.counts ∧ (update st).pushPending = st.pushPending ∧
         (update st).reportLevel = st.reportLevel) ∧
      ((playing1 0 []).station 1).reportLevel = .results ∧ ReportLevel.silent ≠ .results ∧
      (let c := { ScoreContext.zero with accumulator := 34359738367, life := 50 }
       (applyResult { Scoring.reset with weights := PerResult.all 1 } s0.ladder false .exact c).overflow = some .high ∧
         (applyResult s0.scoring s0.ladder false .miss ScoreContext.zero).overflow = none) := by
  refine ⟨by decide +kernel, by decide +kernel, by decide +kernel, by decide +kernel, fun st => ⟨rfl, rfl, rfl, rfl, rfl, rfl⟩,
    by decide +kernel, by decide +kernel, by decide +kernel⟩

theorem witness_StationEndsAndWhatTheyHandOn :
    let pushing := fun queue => (playing1 9 queue).mapStation 1 fun st => { st with pushPending := true }
    let ending := (playing1 9 []).mapStation 1 fun st => { st with endPassed := true }
    (((pushing [tap 0 0, held4]).station 1).pushPending = true ∧ ((playing1 9 []).station 1).pushPending = false) ∧
      (((playing1 9 []).enterEnd 1 .aborted).2 = [] ∧ ((playing1 9 []).enterEnd 1 .failed).2 ≠ [] ∧
        ((pushing []).enterEnd 1 .aborted).2 ≠ []) ∧
      ((ending.station 1).state = .playing ∧ (ending.station 1).endPassed = true ∧ (ending.station 1).queue = []) ∧
      ((s0.station 1).state ≠ .playing ∧ ((playing1 9 []).station 1).endPassed = false ∧
        ((playing1 9 [tap 0 0]).station 1).queue ≠ []) ∧
      ((s0.station 1).counts[CountKind.exactNotes.index]).toNat + 4294967295 ≤ 4294967295 := by decide +kernel

/-- R57, R58, R129: the drain, the reports of an end, and the pending push that it takes. -/
theorem test_stationEnds :
    let s := (playing1 9 [tap 0 0, held4, mine4 .opened]).mapStation 1 fun st => { st with pushPending := true }
    let t := (s.enterEnd 1 .failed).1
    (t.station 1).counts[CountKind.stepsDrained.index] = 1 ∧ (t.station 1).counts[CountKind.minesDrained.index] = 1 ∧
      (t.station 1).stack.length = 1 ∧ (t.station 1).queue = [] ∧
      (s.enterEnd 1 .failed).2 =
        [.notice 9 (.failed 1 0), .notice 9 (.checkpointTaken 1 1 0 (.ended .failed))] := by decide +kernel

/-- Station 1 PLAYING with a hold on lane 4 and a deadline, at a song time. -/
def holding (time : Int) (d : Deadline) : State :=
  (playing1 time [held4]).mapStation 1 fun st => { st with holds := [item4 d] }

theorem witness_HoldDeadlinesAndTails :
    let pressing := (holding 100 .none).mapScanner (Scanner.setContact (panelOf 1 4) .pressing)
    ((holding 0 .none).station 1).state = .playing ∧ ((holding 0 .none).station 1).holdOn 4 = some (item4 .none) ∧
      ((holding 0 .none).station 1).entry? 0 = some held4 ∧
      (holding 0 .none).clock.songTime.toInt < 0 + Int.ofNat s0.windows.lg ∧
      (-11900) + Int.ofNat s0.windows.lg ≤ pressing.clock.songTime.toInt ∧ pressing.contactOf 1 4 = .pressing ∧
      (holding 100 .none).contactOf 1 4 ≠ .pressing ∧ held4.tailFrame ≤ (holding 12000 .none).clock.songTime.toInt ∧
      (holding 11999 .none).clock.songTime.toInt < held4.tailFrame ∧
      ((holding 12000 (.pending 12000)).station 1).holdOn 4 = some (item4 (.pending 12000)) ∧
      held4.tailFrame ≤ 12000 ∧ (11999 : Int) < held4.tailFrame ∧
      ((holding 12000 (.held 11999)).station 1).holdOn 4 = some (item4 (.held 11999)) ∧
      ((holding 11998 (.pending 11999)).clock.songTime.toInt < 11999 ∧ (11999 : Int) < held4.tailFrame) ∧
      (holding 11999 (.held 11999)).clock.songTime.toInt < held4.tailFrame ∧
      held4.body = .hold 4 4 24 held4.tailFrame := by decide +kernel

theorem witness_MinesAndMarkers :
    (mine4 .queued).body = .mine 4 4 ∧ (mine4 .queued).state = .queued ∧
      (mine4 .queued).frame - Int.ofNat s0.windows.wm ≤ (playing1 7840 [mine4 .queued]).clock.songTime.toInt ∧
      (let s := (playing1 7840 [mine4 .queued]).mapScanner (Scanner.setContact (panelOf 1 4) .releasing)
       s.contactOf 1 4 = .releasing) ∧
      (playing1 7840 [mine4 .queued]).contactOf 1 4 = .up ∧ (mine4 .opened).state = .opened ∧
      (playing1 12159 [mine4 .queued]).clock.songTime.toInt < (mine4 .queued).frame + Int.ofNat s0.windows.wm ∧
      (mine4 .queued).frame + Int.ofNat s0.windows.wm ≤ (playing1 12160 [mine4 .queued]).clock.songTime.toInt ∧
      (mine4 .opened).frame + Int.ofNat s0.windows.wm ≤ (playing1 12160 [mine4 .opened]).clock.songTime.toInt ∧
      (((playing1 12160 [mine4 .opened]).station 1).queue = [] ++ mine4 .opened :: [] ∧
        (12160 - (mine4 .opened).frame).natAbs ≤ s0.windows.wm) ∧
      (let e : Entry := { tap 0 50 with body := .endMark, state := .queued }
       e.body = .endMark ∧ e.frame ≤ (playing1 50 [e]).clock.songTime.toInt) ∧
      (let e : Entry := { tap 0 50 with body := .cueMark 3, state := .queued }
       e.body = .cueMark 3 ∧ e.frame = (playing1 50 [e]).clock.songTime.toInt) ∧
      (let e : Entry := { tap 0 50 with body := .cueMark 3, state := .queued }
       e.frame < (playing1 51 [e]).clock.songTime.toInt ∧ (playing1 49 [e]).clock.songTime.toInt < e.frame ∧
         (tap 0 50).body ≠ .endMark ∧ ∀ channel : ChannelId, (tap 0 50).body ≠ .cueMark channel) ∧
      ((playing1 7839 [mine4 .queued]).clock.songTime.toInt < (mine4 .queued).frame - Int.ofNat s0.windows.wm ∧
        (mine4 .opened).state ≠ .queued) ∧
      ((playing1 12159 [mine4 .opened]).clock.songTime.toInt < (mine4 .opened).frame + Int.ofNat s0.windows.wm ∧
        (mine4 .queued).state ≠ .opened) ∧
      ((s0.station 1).state ≠ .playing ∧
        ∀ x ∈ ((playing1 0 [mine4 .opened]).station 1).queue, mineEligible s0.windows 4 12161 x = false) := by
  decide +kernel

/-- R105: a CUE_MARK before song time leaves without its trigger; one at song time starts its channel. -/
theorem test_cueMarkPassedOver :
    let e : Entry := { tap 0 50 with body := .cueMark 3, state := .queued }
    let armed := fun t : Int => (playing1 t [e]).mapCue fun c => c.mapChannel 3 fun ch =>
      { ch with state := .armed, config := { ch.config with source := .chartMark } }
    let after := fun t : Int => (armed t).markerEvent 1 e
    ((after 51).station 1).queue = [] ∧ ((after 51).cue.channels[3]).state = .armed ∧
      ((after 50).station 1).queue = [] ∧ ((after 50).cue.channels[3]).state ≠ .armed ∧ after 49 = armed 49 := by
  decide +kernel

/-! Chapters 06 and 07 -/

theorem witness_ResultAppliedAndTheScoreItShows :
    let c := { ScoreContext.zero with accumulator := 34359738367, life := 50 }
    (c.accumulator + 1 * Int.ofNat (multiplierAt s0.ladder 0) > 34359738367) ∧
      (-34359738368 - 50 * Int.ofNat (multiplierAt s0.ladder 0) < -34359738368) ∧
      (-34359738368 ≤ c.accumulator ∧ c.accumulator ≤ 34359738367) ∧
      (Int.ofNat c.life + Scoring.reset.deltas.get .miss < 0 ∧ 0 ≤ Int.ofNat c.life + Scoring.reset.deltas.get .mineHit) ∧
      s0.ladder[0]? = some { threshold := 0, multiplier := 16 } ∧ s0.ladder[1]? = none ∧ 0 ≤ c.accumulator ∧
      ({ c with accumulator := -1 } : ScoreContext).accumulator < 0 := by decide +kernel

theorem witness_CheckpointPushAtOnceOrPending :
    s0.ready ∧ (inStation .loaded).ready ∧ (holding 0 .none).ready ∧ 3 < (4#8).toNat ∧
      (1#8).toNat = (1 : StationId).val ∧ (s0.station 1).state = .vacant ∧
      ((inStation .loaded).station 1).state ≠ .vacant ∧ ((inStation .loaded).station 1).pushPending = false ∧
      ((inStation .loaded).station 1).stack.length < 4 ∧ ((inStation .loaded).station 1).state ≠ .playing ∧
      4 ≤ ({ Station.reset with stack := List.replicate 4 ScoreContext.zero } : Station).stack.length ∧
      ({ Station.reset with pushPending := true } : Station).pushPending = true ∧
      ((holding 0 .none).station 1).state = .playing ∧ held4.state = .holding ∧
      held4 ∈ ((holding 0 .none).station 1).queue ∧ (playing1 0 []).quiet 1 = true ∧
      (holding 0 .none).quiet 1 = false := by
  refine ⟨witness_ready, readyOf rfl rfl, readyOf rfl rfl, ?_⟩
  decide +kernel

/-- Station 1 LOADED with one saved context. -/
def saved1 : State := (inStation .loaded).mapStation 1 fun st => { st with stack := [ScoreContext.zero] }

theorem witness_CheckpointPop :
    saved1.ready ∧ (inStation .loaded).ready ∧ 3 < (4#8).toNat ∧ (1#8).toNat = (1 : StationId).val ∧
      ({ Station.reset with pushPending := true } : Station).pushPending = true ∧
      (s0.station 1).pushPending = false ∧ (s0.station 1).state = .vacant ∧ (saved1.station 1).pushPending = false ∧
      (saved1.station 1).state ≠ .playing ∧ (saved1.station 1).state ≠ .vacant ∧
      ((inStation .loaded).station 1).stack = [] ∧ (saved1.station 1).stack = ScoreContext.zero :: [] := by
  refine ⟨readyOf rfl rfl, readyOf rfl rfl, ?_⟩
  decide +kernel

theorem witness_CheckpointDrop :
    saved1.ready ∧ s0.ready ∧ 3 < (4#8).toNat ∧ (1#8).toNat = (1 : StationId).val ∧
      ({ Station.reset with pushPending := true } : Station).pushPending = true ∧
      (s0.station 1).pushPending = false ∧ (s0.station 1).stack = [] ∧ (saved1.station 1).pushPending = false ∧
      (saved1.station 1).stack = ScoreContext.zero :: [] := by
  refine ⟨readyOf rfl rfl, witness_ready, ?_⟩
  decide +kernel

/-! Chapter 08 -/

theorem witness_SongArmAndStartRequests :
    ((inStation .loaded).ready ∧ s0.ready ∧ 15 < (16#8).toNat ∧ (2#8).toNat ≤ 15 ∧ ¬ (inStation .loaded).songActive ∧
      (inSong .halted).songActive ∧ (2#8 : Byte) ≠ 0 ∧
      (∀ k : StationId, (2#8).getLsbD k.val = true → ((inStation .loaded).station k).state = .loaded) ∧
      (∃ k : StationId, (15#8).getLsbD k.val = true ∧ ((inStation .loaded).station k).state ≠ .loaded)) ∧
    ((inSong .armed).ready ∧ s0.ready ∧ (inSong .armed).song.state = .armed ∧ s0.song.state ≠ .armed) := by
  refine ⟨?_, ?_⟩
  · refine ⟨readyOf rfl rfl, witness_ready, ?_⟩
    unfold State.songActive
    decide +kernel
  · exact ⟨readyOf rfl rfl, witness_ready, rfl, by decide +kernel⟩

theorem witness_SongAbortPulsesAndEndEvents :
    (playing1 0 []).ready ∧ (inSong .armed).ready ∧ s0.ready ∧ 15 < (16#8).toNat ∧ (15#8).toNat ≤ 15 ∧
      s0.song.state = .stopped ∧ (inSong .armed).song.state = .armed ∧ (1#8).getLsbD 0 = true ∧
      (14#8).getLsbD 0 = false ∧ (playing1 0 []).songActive ∧ (playing1 0 []).song.state = .running ∧
      (playing1 0 []).song.armed.getLsbD 1 = true ∧ ((playing1 0 []).station 1).state = .playing ∧
      (playing1 0 []).song.armed.getLsbD 0 = false ∧ (playing1 0 []).song.abortSet.atMeasure = false ∧
      (playing1 0 []).song.abortSet.onFail = false ∧
      ({ AbortSet.empty with atMeasureN := true } : AbortSet).atMeasureN = true ∧
      ∀ k : StationId, (inSong .running).song.armed.getLsbD k.val = true → ((inSong .running).station k).state ≠ .playing := by
  refine ⟨readyOf rfl rfl, readyOf rfl rfl, witness_ready, ?_⟩
  unfold State.songActive
  decide +kernel

/-! Chapter 09 -/

theorem witness_CueStepsPutWritesAllOrNone :
    s0.ready ∧ ([] : List StepRec).length = 0 ∧ 40 < (List.replicate 41 (⟨0, 0, 0, 1⟩ : StepRec)).length ∧
      1 ≤ (List.replicate 40 (⟨0, 0, 0, 1⟩ : StepRec)).length ∧ (List.replicate 40 (⟨0, 0, 0, 1⟩ : StepRec)).length ≤ 40 ∧
      (let good := fun r : StepRec => r.mode.toNat ≤ 2 ∧ r.line.toNat ≤ 47 ∧ 1 ≤ r.duration.toNat
       good ⟨2, 47, 0, 1⟩ ∧ ¬ good ⟨3, 47, 0, 1⟩ ∧ ¬ good ⟨2, 48, 0, 1⟩ ∧ ¬ good ⟨2, 47, 0, 0⟩) :=
  ⟨witness_ready, by decide +kernel⟩

/-- Cue channel 0 STEPPING with a running step that owns its line. -/
def stepping0 (f : CueChannel → CueChannel) : State :=
  inChannel fun ch => f { ch with state := .stepping running0, serial := 1 }

/-- The greatest configuration of a channel. -/
def fullRec : ChannelRec := ⟨0, 255, 256, 1, 1, 1, 8, 15, 0x1FF, 255, 7⟩

theorem witness_CueChannelSetAndStop :
    s0.ready ∧ (stepping0 id).ready ∧ (0#8).toNat = (0 : ChannelId).val ∧ fullRec.channel = 0#8 ∧
      cueConfigOf { fullRec with stepCount := 257 } = none ∧ (cueConfigOf fullRec).isSome = true ∧
      (s0.cue.channels[0]).state = .off ∧ ((stepping0 id).cue.channels[0]).state ≠ .off ∧ 7 < (8#8).toNat ∧
      ((stepping0 id).cue.channels[0]).running = some running0 := by
  refine ⟨witness_ready, readyOf rfl rfl, ?_⟩
  decide +kernel

theorem witness_CueConfigurationAndItsTriggers :
    (256#16).toNat = 256 ∧ 256 < (257#16).toNat ∧ 8 < (9#8).toNat ∧ (cueConfigOf fullRec).isSome = true ∧
      cueConfigOf { fullRec with sourceChannel := 8 } = none ∧
      cueConfigOf { fullRec with source := 3, laneMask := 0xFE00 } = none ∧
      cueConfigOf { fullRec with source := 4, stationMask := 0xF0 } = none ∧ (0x110#9).getLsbD 4 = true ∧
      (∀ m : LaneId, m.val < 4 → (0x110#9).getLsbD m.val = false) ∧
      s0.outbox = none ∧ (s0.withOutbox (some [])).outbox = some [] := by decide +kernel

theorem witness_LineBaseSetAndCueFire :
    (s0.ready ∧ 1 ≤ (List.replicate 48 (0 : Byte)).length ∧ (List.replicate 48 (0 : Byte)).length ≤ 48 ∧
      47 < (48#8).toNat ∧ 48 < (1#8).toNat + 48 ∧ (47#8).toNat ≤ 47 ∧ (47#8).toNat + [(9 : Byte)].length ≤ 48) ∧
    (let fire := fun st => inChannel fun ch => { ch with state := st, config := { ch.config with source := .linkFire } }
    s0.ready ∧ (fire .off).ready ∧ (fire .done).ready ∧ (fire .armed).ready ∧ (fire (.stepping running0)).ready ∧
      7 < (8#8).toNat ∧ (0#8).toNat = (0 : ChannelId).val ∧ (s0.cue.channels[0]).config.source ≠ .linkFire ∧
      ((fire .off).cue.channels[0]).config.source = .linkFire ∧ ((fire .off).cue.channels[0]).state = .off ∧
      ((fire .done).cue.channels[0]).state = .done ∧ ((fire .armed).cue.channels[0]).state = .armed) := by
  refine ⟨?_, ?_⟩
  · exact ⟨witness_ready, by decide +kernel⟩
  · refine ⟨witness_ready, readyOf rfl rfl, readyOf rfl rfl, readyOf rfl rfl, readyOf rfl rfl, ?_⟩
    decide +kernel

theorem witness_ChannelTakesATrigger :
    (s0.cue.channels[0]).state = .off ∧
      ((inChannel fun ch => { ch with state := .armed }).cue.channels[0]).state = .armed ∧
      (let c := fun n flag => ((stepping0 fun ch =>
         { ch with waiting := List.replicate n { station := none, lane := none }, overrun := flag }).cue.channels[0])
       (c 6 false).state = .stepping running0 ∧ (c 6 false).config.mode = .single ∧ (c 6 false).waiting.length < 7 ∧
         7 ≤ (c 7 false).waiting.length ∧ (c 7 false).overrun = false ∧ (c 7 true).overrun = true) ∧
      (let c := fun p => ((stepping0 fun ch => { ch with config := { ch.config with mode := .run, retrigger := p } }).cue.channels[0])
       (c .ignore).config.mode = .run ∧ (c .ignore).config.retrigger = .ignore ∧
         (c .restart).config.retrigger = .restart) ∧
      (s0.cue.memory[(s0.cue.channels[0]).config.slot 0]).mode = .fixed := by decide +kernel

theorem witness_StepExpires :
    let c := fun f => ((stepping0 f).cue.channels[0])
    (c id).state = .stepping running0 ∧ (c id).config.count ≤ (c id).pointer + 1 ∧
      (c id).config.endAction = .stop ∧
      (let two := c fun ch => { ch with config := { ch.config with count := 2, mode := .run, endAction := .loop } }
       two.pointer + 1 < two.config.count ∧ two.config.mode = .run ∧ two.config.endAction = .loop) ∧
      (c fun ch => { ch with waiting := [{ station := none, lane := none }] }).waiting =
        { station := none, lane := none } :: [] ∧ (c id).waiting = [] ∧
      (let loop := c fun ch => { ch with
         config := { ch.config with endAction := .loop }, waiting := [{ station := none, lane := none }] }
       loop.config.count ≤ loop.pointer + 1 ∧ loop.config.endAction = .loop ∧ loop.config.mode = .single ∧
         loop.waiting = { station := none, lane := none } :: []) := by decide +kernel

/-! Invariants: State.reset meets each, and a step from it goes on -/

/-- Station 1 PLAYING a tap and a mine of one tick, with a hold on lane 4. -/
def ordered1 : State :=
  (playing1 9000 [held4, tap 1 10000, mine4 .queued]).mapStation 1 fun st =>
    { st with intake := { st.intake with lastTick := some 20, nextSeq := 4 }, holds := [item4 .none] }

/-- R44: three entries of one tick in the order of their acceptance. -/
theorem test_ordered : ordered1.Ordered := by
  have map : TempoMapOk ordered1.clock.map := by
    refine ⟨fun seg h => ?_, fun seg h => ?_, .singleton _⟩
    · cases List.mem_singleton.mp h
      exact ⟨by simp [SegmentBody.legal, beat0], by decide⟩
    · cases Option.mem_some.mp h
      exact ⟨rfl, rfl⟩
  have rest : ∀ k, ((ordered1.station k).queue.map Entry.frame).Pairwise (· ≤ ·) ∧
      ((ordered1.station k).queue.map Entry.tick).Pairwise (· ≤ ·) ∧
      ((ordered1.station k).queue.map Entry.seq).Pairwise (· < ·) ∧
      (∀ e ∈ (ordered1.station k).queue, e.seq < (ordered1.station k).intake.nextSeq ∧
        convert ordered1.clock.map e.tick = .frame e.frame ∧ (ordered1.station k).intake.lastTick = some e.tick) ∧
      ((ordered1.station k).holds.map fun h => h.lane.val).Pairwise (· < ·) := by decide +kernel
  refine ⟨map, fun k => ?_⟩
  obtain ⟨a, b, c, d, e⟩ := rest k
  exact ⟨a, b, c, fun x h => ⟨(d x h).1, (d x h).2.1, x.tick, (d x h).2.2, Nat.le_refl _⟩, e⟩

theorem witness_ListsStayWithinTheirSizes :
    ordered1.Ordered ∧ (∃ t, step ordered1 = .next t) ∧
    s0.link.reports.length ≤ 64 ∧ s0.link.loss ≤ 65535 ∧ s0.link.occupancy ≤ 512 ∧ s0.clock.map.length ≤ 64 ∧
      (∀ c : ChannelId, (s0.cue.channels[c]).waiting.length ≤ 7) ∧
      (∀ k, (s0.station k).queue.length ≤ 192 ∧ (s0.station k).stack.length ≤ 4 ∧ (s0.station k).pushPending = false) := by
  exact ⟨test_ordered, ⟨_, rfl⟩, by decide +kernel⟩

theorem witness_aStepGoesOn : step s0 = .next { s0 with refTime := 1 } := rfl

theorem witness_ScoresStayInTheirRanges :
    1 ≤ s0.scoring.lifeStart ∧ s0.scoring.lifeStart ≤ s0.scoring.lifeMax ∧ s0.scoring.lifeMax ≤ 1000 ∧
      1 ≤ s0.ladder.length ∧ s0.ladder.length ≤ 8 ∧ (∀ r ∈ s0.ladder, 16 ≤ r.multiplier ∧ r.multiplier ≤ 255) ∧
      ∀ k, -34359738368 ≤ (s0.station k).context.accumulator ∧ (s0.station k).context.accumulator ≤ 34359738367 ∧
        (s0.station k).context.combo ≤ (s0.station k).context.maxCombo ∧
        (s0.station k).context.life ≤ s0.scoring.lifeMax ∧ (s0.station k).context.rung ≤ 7 ∧
        (s0.station k).stack = [] := by decide +kernel

theorem witness_LinesAndHandOffsSettle :
    (∀ n : LineId, (s0.cue.lines[n]).owner = none → (s0.cue.lines[n]).current = (s0.cue.lines[n]).base) ∧
      s0.quiescent := ⟨by decide +kernel, rfl, rfl, rfl⟩

end Sys2Proof.Tests
end

section
/-! SUPPORT. The song clock: what the governing segment of a tick is, that conversion is non-decreasing in a map of R9's
shape, what one checked segment and a run of them give, and which measure pulse is the first. -/

namespace Sys2Proof.Machine

/-! ### The governing segment (R10) -/

/-- R10: how the governing segment is found from the front of the map. -/
theorem governing_cons (seg : Segment) (rest : List Segment) (tick : Nat) :
    governing (seg :: rest) tick =
      if seg.startTick = tick then some seg
      else (governing rest tick).or (if seg.startTick < tick then some seg else none) := by
  by_cases here : seg.startTick = tick
  · simp [governing, here]
  · simp only [governing, List.find?_cons, here, decide_false, if_false]
    cases rest.find? fun x => decide (x.startTick = tick) with
    | some x => simp
    | none => by_cases lt : seg.startTick < tick <;> simp [lt, List.getLast?_cons]

/-- R10: a governing segment is one of the map's, and starts at the tick or before it. -/
theorem governing_some {map : List Segment} {tick : Nat} {seg : Segment} (h : governing map tick = some seg) :
    seg ∈ map ∧ seg.startTick ≤ tick := by
  induction map with
  | nil => cases h
  | cons x rest ih =>
    rw [governing_cons] at h
    split at h
    · rename_i here
      cases h
      exact ⟨.head _, Nat.le_of_eq here⟩
    · cases found : governing rest tick with
      | some y =>
        rw [found, Option.some_or] at h
        exact ⟨.tail _ (ih (found.trans h)).1, (ih (found.trans h)).2⟩
      | none =>
        rw [found, Option.none_or] at h
        split at h
        · cases h
          exact ⟨.head _, Nat.le_of_lt ‹_›⟩
        · cases h

/-- R10: a tick without a governing segment lies before every segment. -/
theorem governing_none {map : List Segment} {tick : Nat} (h : governing map tick = none) :
    ∀ seg ∈ map, tick < seg.startTick := by
  induction map with
  | nil => simp
  | cons x rest ih =>
    rw [governing_cons] at h
    split at h
    · cases h
    · rw [Option.or_eq_none_iff] at h
      obtain ⟨others, here⟩ := h
      have : ¬ x.startTick < tick := fun lt => by simp [lt] at here
      intro seg mem
      rcases List.mem_cons.mp mem with rfl | mem
      · omega
      · exact ih others seg mem

/-- R10: the first segment that starts at a tick governs it. -/
theorem governing_first {before after : List Segment} {seg : Segment} (earlier : ∀ x ∈ before, x.startTick < seg.startTick) :
    governing (before ++ seg :: after) seg.startTick = some seg := by
  induction before with
  | nil => rw [List.nil_append, governing_cons, if_pos rfl]
  | cons x rest ih =>
    rw [List.cons_append, governing_cons, if_neg (Nat.ne_of_lt (earlier x (.head _))),
      ih fun y mem => earlier y (.tail _ mem), Option.some_or]

/-- R10: where no segment starts at a tick, the last of those that start before it governs it. -/
theorem governing_last {before after : List Segment} {seg : Segment} {tick : Nat} (lt : seg.startTick < tick)
    (none : ∀ x ∈ before, x.startTick ≠ tick) (later : ∀ x ∈ after, tick < x.startTick) :
    governing (before ++ seg :: after) tick = some seg := by
  induction before with
  | nil =>
    have rest : governing after tick = .none := by
      cases found : governing after tick with
      | none => rfl
      | some x =>
        obtain ⟨mem, le⟩ := governing_some found
        have := later x mem
        omega
    rw [List.nil_append, governing_cons, if_neg (Nat.ne_of_lt lt), rest, Option.none_or, if_pos lt]
  | cons x rest ih =>
    rw [List.cons_append, governing_cons, if_neg (none x (.head _)), ih fun y mem => none y (.tail _ mem), Option.some_or]

/-- R10: a conversion that returns a frame has a governing segment, in range. -/
theorem convert_eq_frame {map : List Segment} {tick : Nat} {f : Int} (h : convert map tick = .frame f) :
    ∃ seg, governing map tick = some seg ∧ seg.frameOf tick = f := by
  unfold convert at h
  split at h
  · cases h
  · rename_i seg found
    split at h
    · cases h
      exact ⟨seg, found, rfl⟩
    · cases h

/-! ### Conversion is non-decreasing (R6, R10) -/

theorem framesOf_mono {a b : Nat} (fpbRaw : Nat) (h : a ≤ b) : framesOf a fpbRaw ≤ framesOf b fpbRaw :=
  Int.ofNat_le.mpr (Nat.div_le_div_right (Nat.mul_le_mul_right _ h))

/-- R10: inside one segment a later tick has no earlier frame. -/
theorem Segment.frameOf_mono (seg : Segment) {a b : Nat} (h : a ≤ b) : seg.frameOf a ≤ seg.frameOf b := by
  unfold Segment.frameOf
  split
  · exact Int.add_le_add_left (framesOf_mono _ (Nat.sub_le_sub_right h _)) _
  · exact Int.le_refl _

/-- R10: no frame of a segment lies before its start frame. -/
theorem Segment.startFrame_le_frameOf (seg : Segment) (tick : Nat) : seg.startFrame ≤ seg.frameOf tick := by
  unfold Segment.frameOf
  split
  · exact Int.le_add_of_nonneg_right (Int.natCast_nonneg _)
  · exact Int.le_refl _

/-- R9: a segment starts at no earlier tick than the segment it follows. -/
theorem Segment.Follows.startTick_le {a b : Segment} (h : a.Follows b) : a.startTick ≤ b.startTick := by
  unfold Segment.Follows at h
  split at h
  · exact Nat.le_of_lt h.1
  · exact Nat.le_of_eq h.1.symm

/-- R6, R10: a tick of a segment, up to the start of the segment that follows it, has no later frame than that start. -/
theorem Segment.Follows.frameOf_le {a b : Segment} (h : a.Follows b) {tick : Nat} (le : tick ≤ b.startTick) :
    a.frameOf tick ≤ b.startFrame := by
  unfold Segment.Follows at h
  split at h
  · rename_i fpbRaw beats body
    simp only [Segment.frameOf, body, h.2]
    exact Int.add_le_add_left (framesOf_mono fpbRaw (Nat.sub_le_sub_right le _)) _
  · rename_i length body
    simp only [Segment.frameOf, body, h.2]
    exact Int.le_add_of_nonneg_right (Int.natCast_nonneg _)

/-- R9: no segment of a tempo map starts before its first one. -/
theorem chain_startTick_le {seg : Segment} {rest : List Segment} (chain : (seg :: rest).IsChain Segment.Follows) :
    ∀ x ∈ rest, seg.startTick ≤ x.startTick := by
  induction rest generalizing seg with
  | nil => simp
  | cons next rest ih =>
    obtain ⟨follows, chain⟩ := List.isChain_cons_cons.mp chain
    intro x mem
    rcases List.mem_cons.mp mem with rfl | mem
    · exact follows.startTick_le
    · exact Nat.le_trans follows.startTick_le (ih chain x mem)

/-- R6, R10: no tick of a tempo map has a frame before the map's first start frame. -/
theorem chain_startFrame_le {seg : Segment} {rest : List Segment} (chain : (seg :: rest).IsChain Segment.Follows)
    {tick : Nat} {x : Segment} (h : governing (seg :: rest) tick = some x) : seg.startFrame ≤ x.frameOf tick := by
  induction rest generalizing seg with
  | nil =>
    obtain rfl := List.mem_singleton.mp (governing_some h).1
    exact x.startFrame_le_frameOf tick
  | cons next rest ih =>
    obtain ⟨follows, chain⟩ := List.isChain_cons_cons.mp chain
    rw [governing_cons] at h
    split at h
    · cases h
      exact Segment.startFrame_le_frameOf _ tick
    · cases found : governing (next :: rest) tick with
      | some y =>
        rw [found, Option.some_or] at h
        calc seg.startFrame ≤ seg.frameOf seg.startTick := seg.startFrame_le_frameOf _
          _ ≤ next.startFrame := follows.frameOf_le follows.startTick_le
          _ ≤ x.frameOf tick := ih chain (found.trans h)
      | none =>
        rw [found, Option.none_or] at h
        split at h
        · cases h
          exact Segment.startFrame_le_frameOf _ tick
        · cases h

/-- R6, R10: a tick of a segment has no later frame than a tick that a segment behind it governs, up to where the next
segment starts. -/
theorem chain_frameOf_le {seg : Segment} {rest : List Segment} (chain : (seg :: rest).IsChain Segment.Follows) {a b : Nat}
    (upTo : ∀ x ∈ rest, a ≤ x.startTick) {y : Segment} (h : governing rest b = some y) :
    seg.frameOf a ≤ y.frameOf b := by
  cases rest with
  | nil => cases h
  | cons next rest =>
    obtain ⟨follows, chain⟩ := List.isChain_cons_cons.mp chain
    exact Int.le_trans (follows.frameOf_le (upTo next (.head _))) (chain_startFrame_le chain h)

/-- R10: along a chain of segments that follow one another, a later tick has no earlier frame. -/
theorem chain_governing_mono {map : List Segment} (chain : map.IsChain Segment.Follows) {a b : Nat} (le : a ≤ b)
    {x y : Segment} (hx : governing map a = some x) (hy : governing map b = some y) : x.frameOf a ≤ y.frameOf b := by
  induction map with
  | nil => cases hx
  | cons seg rest ih =>
    have behind := chain_startTick_le chain
    rw [governing_cons] at hx hy
    by_cases first : seg.startTick = a
    · rw [if_pos first] at hx
      obtain rfl := Option.some.inj hx
      split at hy
      · obtain rfl := Option.some.inj hy
        exact seg.frameOf_mono le
      · cases found : governing rest b with
        | some z =>
          rw [found, Option.some_or] at hy
          exact chain_frameOf_le chain (first ▸ behind) (found.trans hy)
        | none =>
          rw [found, Option.none_or] at hy
          split at hy <;> cases hy
          exact Segment.frameOf_mono _ le
    · rw [if_neg first] at hx
      cases foundA : governing rest a with
      | some z =>
        rw [foundA, Option.some_or] at hx
        obtain rfl := Option.some.inj hx
        obtain ⟨mem, startsBy⟩ := governing_some foundA
        have := behind z mem
        rw [if_neg (by omega)] at hy
        cases foundB : governing rest b with
        | some w =>
          rw [foundB, Option.some_or] at hy
          exact ih (List.IsChain.tail chain) foundA (foundB.trans hy)
        | none =>
          have := governing_none foundB z mem
          omega
      | none =>
        have after := governing_none foundA
        rw [foundA, Option.none_or] at hx
        split at hx <;> cases hx
        rw [if_neg (by omega)] at hy
        cases foundB : governing rest b with
        | some w =>
          rw [foundB, Option.some_or] at hy
          exact chain_frameOf_le chain (fun z mem => Nat.le_of_lt (after z mem)) (foundB.trans hy)
        | none =>
          rw [foundB, Option.none_or] at hy
          split at hy <;> cases hy
          exact Segment.frameOf_mono _ le

/-- R10: in a tempo map of R9's shape conversion is non-decreasing. -/
theorem convert_mono {map : List Segment} (ok : TempoMapOk map) {a b : Nat} (le : a ≤ b) {f g : Int}
    (hf : convert map a = .frame f) (hg : convert map b = .frame g) : f ≤ g := by
  obtain ⟨x, hx, rfl⟩ := convert_eq_frame hf
  obtain ⟨y, hy, rfl⟩ := convert_eq_frame hg
  exact chain_governing_mono ok.2.2 le hx hy

end Sys2Proof.Machine
end

section
/-! SUPPORT. The invariants of the part's lists: that every move keeps their sizes, and the order of the tempo map, the
queues and the hold lists. -/

namespace Sys2Proof.Machine

/-! ### The tempo map keeps its shape (R5, R9) -/

/-- R9, check 1: what passes it has legal values. -/
theorem segmentBodyOf_legal {r : SegmentRec} {body : SegmentBody} (h : segmentBodyOf r = some body) : body.legal := by
  unfold segmentBodyOf at h
  split at h
  · split at h <;> cases h
    rename_i legal
    exact ⟨legal.1, Nat.le_of_lt_succ r.fpbRaw.isLt, legal.2⟩
  · split at h <;> cases h
    assumption
  · cases h

/-- R6, R9: a segment that passes the checks has legal values and a start frame of 32 bits; it is a BEAT at tick 0 where
it is the first, and else may follow the segment before it. -/
theorem checkSegment_ok {origin : Int} {before : Option Segment} {r : SegmentRec} {seg : Segment}
    (h : checkSegment origin before r = .ok seg) :
    (seg.body.legal ∧ -2147483648 ≤ seg.startFrame ∧ seg.startFrame ≤ 2147483647) ∧
      (before = none → seg.startTick = 0 ∧ seg.body.isBeat = true) ∧ ∀ b, before = some b → b.Follows seg := by
  unfold checkSegment at h
  split at h
  · cases h
  · rename_i body found
    have legal := segmentBodyOf_legal found
    split at h
    · split at h
      · rename_i first
        simp only [Bool.and_eq_true, decide_eq_true_eq] at first
        split at h <;> cases h
        rename_i range
        exact ⟨⟨legal, of_decide_eq_true range⟩, fun _ => ⟨first.2, first.1⟩, nofun⟩
      · cases h
    · rename_i b
      simp only at h
      repeat' split at h
      all_goals cases h
      rename_i order stop duplicate range
      rw [Bool.not_eq_true, Bool.not_eq_false'] at range
      refine ⟨⟨legal, of_decide_eq_true range⟩, nofun, fun x e => ?_⟩
      cases e
      simp only [Bool.and_eq_true, decide_eq_true_eq, not_and] at stop duplicate
      cases body' : b.body with
      | beat fpbRaw beats =>
        have later : r.startTick.toNat ≠ b.startTick := fun e => duplicate e (by rw [body']; rfl)
        simp only [Segment.Follows, body', Segment.nextStart]
        exact ⟨by omega, rfl⟩
      | stop length =>
        have notLater := stop (by rw [body']; rfl)
        simp only [Segment.Follows, body', Segment.nextStart, and_true]
        omega

/-- R9: a map of R9's shape keeps it as a checked segment is appended. -/
theorem tempoMapOk_append {origin : Int} {map : List Segment} {r : SegmentRec} {seg : Segment} (ok : TempoMapOk map)
    (h : checkSegment origin map.getLast? r = .ok seg) : TempoMapOk (map ++ [seg]) := by
  obtain ⟨values, first, chain⟩ := ok
  obtain ⟨legal, asFirst, follows⟩ := checkSegment_ok h
  refine ⟨fun x mem => ?_, fun x mem => ?_, ?_⟩
  · rcases List.mem_append.mp mem with mem | mem
    · exact values x mem
    · rw [List.mem_singleton.mp mem]
      exact legal
  · cases map with
    | nil =>
      obtain rfl : seg = x := Option.some.inj mem
      exact asFirst rfl
    | cons y rest => exact first x mem
  · exact List.isChain_append.mpr ⟨chain, .singleton _, fun x mem y mem' => by
      obtain rfl : seg = y := Option.some.inj mem'
      exact follows x mem⟩

/-- R8, R9: a map of R9's shape keeps it as a request's segments are appended. -/
theorem appendSegments_ok {origin : Int} {map map' : List Segment} {rs : List SegmentRec} {i : Nat} (ok : TempoMapOk map)
    (h : appendSegments origin map rs i = .ok map') : TempoMapOk map' := by
  induction rs generalizing map i with
  | nil =>
    cases h
    exact ok
  | cons r rest ih =>
    unfold appendSegments at h
    split at h
    · cases h
    · exact ih (tempoMapOk_append ok ‹_›) h

/-! ### The order of a queue (R10, R44) -/

/-- R10, R44: the order of a queue, told by the places of its entries, under a tempo map and an intake record. -/
def PlacesOrdered (map : List Segment) (intake : Intake) (places : List (Nat × Nat × Int)) : Prop :=
  places.Pairwise (fun p q => p.2.2 ≤ q.2.2 ∧ p.2.1 ≤ q.2.1 ∧ p.1 < q.1) ∧
    ∀ p ∈ places, p.1 < intake.nextSeq ∧ convert map p.2.1 = .frame p.2.2 ∧
      ∃ last, intake.lastTick = some last ∧ p.2.1 ≤ last

/-- A station is in order exactly where the places of its entries are, and its hold list is. -/
theorem ordered_iff {map : List Segment} {st : Station} :
    st.Ordered map ↔
      PlacesOrdered map st.intake (st.queue.map Entry.place) ∧ (holdLanes st.holds).Pairwise (· < ·) := by
  simp only [Station.Ordered, PlacesOrdered, holdLanes, List.pairwise_map, List.pairwise_and_iff, List.forall_mem_map,
    Entry.place]
  tauto

/-- An empty queue is in order, under every map. -/
theorem placesOrdered_nil (map : List Segment) (intake : Intake) : PlacesOrdered map intake [] := ⟨.nil, by simp⟩

/-- A station whose queue is empty is in order under one map as under another. -/
theorem ordered_of_queue_nil {map map' : List Segment} {st : Station} (empty : st.queue = []) (h : st.Ordered map) :
    st.Ordered map' := by
  rw [ordered_iff] at h ⊢
  rw [empty]
  exact ⟨placesOrdered_nil _ _, h.2⟩

/-- A station with no entry and no hold item is in order. -/
theorem ordered_of_nil {map : List Segment} {st : Station} (queue : st.queue = []) (holds : st.holds = []) :
    st.Ordered map := by
  rw [ordered_iff, queue, holds]
  exact ⟨placesOrdered_nil _ _, .nil⟩

/-- The order of a station rests on its queue, the last accepted tick, the next serial and the hold list alone. -/
theorem Station.Ordered.of_same {map : List Segment} {a b : Station} (h : a.Ordered map) (queue : b.queue = a.queue)
    (lastTick : b.intake.lastTick = a.intake.lastTick) (nextSeq : b.intake.nextSeq = a.intake.nextSeq)
    (holds : b.holds = a.holds) : b.Ordered map := by
  unfold Station.Ordered at h ⊢
  rw [queue, lastTick, nextSeq, holds]
  exact h

/-- A station that loses entries and gains none stays in order. -/
theorem Station.Ordered.goesOn {map : List Segment} {a b : Station} (h : a.Ordered map) (g : a.GoesOn b) :
    b.Ordered map := by
  rw [ordered_iff] at h ⊢
  obtain ⟨⟨order, each⟩, holds⟩ := h
  refine ⟨⟨order.sublist g.queue, fun p mem => ?_⟩, g.holds holds⟩
  rw [g.nextSeq, g.lastTick]
  exact each p (g.queue.mem mem)

/-- R52: a chord's group field moves no entry. -/
theorem groupChord_places (tick count : Nat) (queue : List Entry) :
    (groupChord tick count queue).map Entry.place = queue.map Entry.place := by
  simp only [groupChord, List.map_map]
  refine List.map_congr_left fun e _ => ?_
  simp only [Function.comp_apply]
  split <;> rfl

/-- R44, R49: an accepted record stands behind every entry of the queue. -/
theorem accept_places (w : Windows) (noteId : Half) (n : Incoming) (st : Station) :
    (st.accept w noteId n).queue.map Entry.place =
      st.queue.map Entry.place ++ [(st.intake.nextSeq, n.tick, n.frame)] := by
  simp only [Station.accept]
  split
  · rw [groupChord_places, List.map_append]
    rfl
  · rw [List.map_append]
    rfl

/-- R10, R44: a station in order stays so as it accepts a record whose tick is not before the last accepted one. -/
theorem Station.Ordered.accept {map : List Segment} {st : Station} (ok : TempoMapOk map) (h : st.Ordered map)
    (w : Windows) (noteId : Half) (n : Incoming) (order : ∀ last, st.intake.lastTick = some last → last ≤ n.tick)
    (converts : convert map n.tick = .frame n.frame) : (st.accept w noteId n).Ordered map := by
  rw [ordered_iff] at h ⊢
  obtain ⟨⟨rises, each⟩, holds⟩ := h
  have before : ∀ p ∈ st.queue.map Entry.place, p.2.1 ≤ n.tick := fun p mem => by
    obtain ⟨_, _, last, accepted, le⟩ := each p mem
    exact Nat.le_trans le (order last accepted)
  refine ⟨⟨?_, ?_⟩, holds⟩
  · rw [accept_places, List.pairwise_append]
    refine ⟨rises, List.pairwise_singleton _ _, fun p mem q mem' => ?_⟩
    obtain rfl := List.mem_singleton.mp mem'
    obtain ⟨serial, frame, _⟩ := each p mem
    exact ⟨convert_mono ok (before p mem) frame converts, before p mem, serial⟩
  · intro p mem
    rw [accept_places] at mem
    rcases List.mem_append.mp mem with mem | mem
    · obtain ⟨serial, frame, _⟩ := each p mem
      exact ⟨Nat.lt_succ_of_lt serial, frame, n.tick, rfl, before p mem⟩
    · obtain rfl := List.mem_singleton.mp mem
      exact ⟨Nat.lt_succ_self _, converts, n.tick, rfl, Nat.le_refl _⟩

/-! ### Every move keeps the order -/

/-- R44, R89: every move of one station keeps its order. -/
theorem StationMove.keeps_ordered {scoring : Scoring} {ladder : List Rung} {map : List Segment} {a b : Station}
    (m : StationMove scoring ladder map a b) (ok : TempoMapOk map) (h : a.Ordered map) : b.Ordered map := by
  cases m with
  | work b state context stack pending goesOn => exact h.goesOn goesOn
  | accept w noteId n room order converts => exact h.accept ok w noteId n order converts
  | play b loaded playing context stack pending goesOn => exact h.goesOn goesOn
  | ended e => split <;> exact h
  | opened m idle => exact ordered_of_nil rfl rfl
  | closed idle => exact ordered_of_nil rfl rfl
  | cleared => exact ordered_of_nil rfl rfl
  | result | stray | pushNow | pushPending | await | pop | drop => exact h

/-- One station is changed, and each stays in order. -/
theorem State.Ordered.mapStation {s : State} (h : s.Ordered) (k : StationId) {f : Station → Station}
    (kept : (f (s.station k)).Ordered s.clock.map) : (s.mapStation k f).Ordered := by
  refine ⟨h.1, fun j => ?_⟩
  rw [State.station_mapStation]
  split
  · rename_i same
    rw [same]
    exact kept
  · exact h.2 j

/-- Every station is changed in one way, which keeps its queue, last tick, serial and hold list. -/
theorem State.Ordered.mapAll {s : State} (h : s.Ordered) {t : State} (f : Station → Station)
    (stations : t.stations = s.stations.map f) (clock : t.clock = s.clock)
    (kept : ∀ st, (f st).queue = st.queue ∧ (f st).intake.lastTick = st.intake.lastTick ∧
      (f st).intake.nextSeq = st.intake.nextSeq ∧ (f st).holds = st.holds) : t.Ordered := by
  refine ⟨clock ▸ h.1, fun k => ?_⟩
  have : t.station k = f (s.station k) := by simp [State.station, stations]
  obtain ⟨queue, lastTick, nextSeq, holds⟩ := kept (s.station k)
  rw [this, clock]
  exact (h.2 k).of_same queue lastTick nextSeq holds

/-- Every move inside the part keeps the order. -/
theorem InnerMove.keeps_ordered {s t : State} (m : InnerMove s t) (h : s.Ordered) : t.Ordered := by
  cases m with
  | station k f move => exact h.mapStation k (move.keeps_ordered h.1 (h.2 k))
  | choices | song | link | cue | post => exact h

/-- R11: with no entry queued every note queue is empty. -/
theorem anyQueued_false {s : State} (h : s.anyQueued = false) (k : StationId) : (s.station k).queue = [] := by
  have all : k ∈ allStations := by revert k; decide
  simpa using List.any_eq_false.mp h k all

/-- R65: new widths change only the last close frame of an intake record. -/
theorem rewindow_keeps (w : Windows) (t : Intake) :
    (t.rewindow w).lastTick = t.lastTick ∧ (t.rewindow w).nextSeq = t.nextSeq := by
  unfold Intake.rewindow
  split <;> exact ⟨rfl, rfl⟩

/-- R5, R9: the empty map has its shape. -/
theorem tempoMapOk_nil : TempoMapOk [] := ⟨by simp, by simp, .nil⟩

/-- R9, R44, R89: every move of the part keeps the order of the tempo map, the queues and the hold lists. -/
theorem Move.keeps_ordered {s t : State} (m : Move s t) (h : s.Ordered) : t.Ordered := by
  cases m with
  | inner move => exact move.keeps_ordered h
  | clock f map => exact ⟨by rw [State.mapClock_clock, map]; exact h.1, fun k => by
      rw [State.mapClock_clock, map]
      exact h.2 k⟩
  | tempo f room idle map =>
    refine ⟨?_, fun k => ordered_of_queue_nil (anyQueued_false idle k) (h.2 k)⟩
    rcases map with empty | ⟨segments, appended⟩
    · rw [State.mapClock_clock, empty]
      exact tempoMapOk_nil
    · exact appendSegments_ok h.1 appended
  | windows r w passed =>
    exact h.mapAll _ rfl rfl fun st => ⟨rfl, (rewindow_keeps w st.intake).1, (rewindow_keeps w st.intake).2, rfl⟩
  | scoring r x passed => exact h.mapAll _ rfl rfl fun st => ⟨rfl, rfl, rfl, rfl⟩
  | ladder l passed => exact h.mapAll _ rfl rfl fun st => ⟨rfl, rfl, rfl, rfl⟩
  | systemReset =>
    refine ⟨tempoMapOk_nil, fun k => ?_⟩
    have : s.systemReset.station k = (s.station k).systemReset := by simp [State.station, State.systemReset]
    rw [this]
    exact ordered_of_nil rfl rfl
  | pinReset straps =>
    refine ⟨tempoMapOk_nil, fun k => ?_⟩
    have : (s.pinReset straps).station k = Station.reset := by
      simp [State.station, State.pinReset, State.reset]
    rw [this]
    exact ordered_of_nil rfl rfl
  | time | scanner => exact h

/-! ### Every move keeps the sizes -/

/-- R44, R124, R126, R130: the sizes of a station's lists, and where a push may be pending. -/
def Station.Sized (st : Station) : Prop :=
  st.queue.length ≤ 192 ∧ st.stack.length ≤ 4 ∧ (st.pushPending = true → st.stack.length < 4 ∧ st.state = .playing)

/-- R176, R180: the sizes of the link port's lists. -/
def LinkPort.Sized (l : LinkPort) : Prop := l.reports.length ≤ 64 ∧ l.loss ≤ 65535 ∧ l.occupancy ≤ 512

/-- R157: the sizes of the pending lists of the cue channels. -/
def CueEngine.Sized (e : CueEngine) : Prop := ∀ c : ChannelId, (e.channels[c]).waiting.length ≤ 7

/-- The sizes of all lists of the part. -/
structure State.Sized (s : State) : Prop where
  link : s.link.Sized
  map : s.clock.map.length ≤ 64
  cue : s.cue.Sized
  stations : ∀ k, (s.station k).Sized

/-- No push is pending where the station is not PLAYING. -/
theorem Station.Sized.not_pending {st : Station} (h : st.Sized) (idle : st.state ≠ .playing) : st.pushPending = false :=
  eq_false_of_ne_true fun pending => idle (h.2.2 pending).2

/-- R44: a record that finds room leaves at most 192 entries. -/
theorem accept_length (w : Windows) (noteId : Half) (n : Incoming) (st : Station) :
    (st.accept w noteId n).queue.length = st.queue.length + 1 := by
  simpa using congrArg List.length (accept_places w noteId n st)

/-- Every move of one station keeps its sizes. -/
theorem StationMove.keeps_sized {scoring : Scoring} {ladder : List Rung} {map : List Segment} {a b : Station}
    (m : StationMove scoring ladder map a b) (h : a.Sized) : b.Sized := by
  have ⟨queue, stack, push⟩ := h
  cases m with
  | work b state context stack' pending goesOn =>
    exact ⟨Nat.le_trans goesOn.length queue, stack' ▸ stack, by rwa [pending, stack', state]⟩
  | accept w noteId n room order converts => exact ⟨by rw [accept_length]; exact room, stack, push⟩
  | play b loaded playing context stack' pending goesOn =>
    have none := h.not_pending (by rw [loaded]; decide)
    exact ⟨Nat.le_trans goesOn.length queue, stack' ▸ stack, fun p => by rw [pending, none] at p; cases p⟩
  | ended e =>
    split
    · rename_i pending
      exact ⟨queue, (push pending).1, fun p => by cases p⟩
    · rename_i free
      exact ⟨queue, stack, fun p => absurd p free⟩
  | pushNow free room => exact ⟨queue, room, fun p => by cases p⟩
  | pushPending pending => exact ⟨queue, (push pending).1, fun p => by cases p⟩
  | await playing free room => exact ⟨queue, stack, fun _ => ⟨room, playing⟩⟩
  | pop c rest top free =>
    rw [top] at stack
    exact ⟨queue, Nat.le_of_succ_le stack, fun p => by rw [free] at p; cases p⟩
  | drop c rest top free =>
    rw [top] at stack
    exact ⟨queue, Nat.le_of_succ_le stack, fun p => by rw [free] at p; cases p⟩
  | opened m idle => exact ⟨Nat.zero_le _, stack, fun p => absurd (push p).2 idle⟩
  | closed idle => exact ⟨Nat.zero_le _, stack, fun p => absurd (push p).2 idle⟩
  | cleared => exact ⟨Nat.zero_le _, Nat.zero_le _, fun p => by cases p⟩
  | result | stray => exact h

/-- R176, R180: every move of the link port keeps its sizes. -/
theorem LinkMove.keeps_sized {l m : LinkPort} (move : LinkMove l m) (h : l.Sized) : m.Sized := by
  obtain ⟨reports, loss, room⟩ := h
  cases move with
  | enqueue r =>
    unfold LinkPort.enqueue
    split
    · rename_i free
      refine ⟨?_, loss, room⟩
      unfold LinkPort.hasRoom LinkPort.freeSlots at free
      simp only [List.length_append, List.length_singleton]
      split at free <;> (have := of_decide_eq_true free; omega)
    · exact ⟨reports, Nat.min_le_left _ _, room⟩
  | beginReport =>
    unfold LinkPort.beginReport
    split
    · exact ⟨reports, Nat.zero_le _, room⟩
    · split
      · rename_i queued
        rw [queued] at reports
        exact ⟨Nat.le_of_succ_le reports, loss, room⟩
      · exact ⟨reports, loss, room⟩
  | other m sameReports sameLoss occupancy => exact ⟨sameReports ▸ reports, sameLoss ▸ loss, by omega⟩
  | systemReset => exact ⟨Nat.zero_le _, Nat.zero_le _, room⟩

/-- R157: a move of the cue engine lets a pending list grow only within 7. -/
theorem CueMove.waiting_le {a b : CueEngine} (move : CueMove a b) (d : ChannelId) :
    (b.channels[d]).waiting.length ≤ (a.channels[d]).waiting.length ∨ (b.channels[d]).waiting.length ≤ 7 := by
  cases move with
  | start now c record =>
    left
    by_cases same : d = c
    · rw [same, CueEngine.startStep, CueEngine.mapChannel_same, CueEngine.mapLine_channels]
    · rw [CueEngine.startStep, CueEngine.mapChannel_ne same, CueEngine.mapLine_channels]
  | release c r =>
    left
    unfold CueEngine.releaseStep
    split <;> exact Nat.le_refl _
  | channels chs _ waiting => exact waiting d
  | systemReset =>
    right
    simp [CueEngine.systemReset]
  | base | memory => exact .inl (Nat.le_refl _)

/-- R157: every move of the cue engine keeps the sizes of the pending lists. -/
theorem CueMove.keeps_sized {a b : CueEngine} (move : CueMove a b) (h : a.Sized) : b.Sized := fun c =>
  (move.waiting_le c).elim (Nat.le_trans · (h c)) id

/-- Every move inside the part keeps the sizes. -/
theorem InnerMove.keeps_sized {s t : State} (m : InnerMove s t) (h : s.Sized) : t.Sized := by
  cases m with
  | station k f move =>
    refine ⟨h.link, h.map, h.cue, fun j => ?_⟩
    rw [State.station_mapStation]
    split
    · rename_i same
      rw [same]
      exact move.keeps_sized (h.stations k)
    · exact h.stations j
  | link f move => exact ⟨move.keeps_sized h.link, h.map, h.cue, h.stations⟩
  | cue f move => exact ⟨h.link, h.map, move.keeps_sized h.cue, h.stations⟩
  | choices | song | post => exact ⟨h.link, h.map, h.cue, h.stations⟩

/-- Every station is changed in one way, which keeps its sizes. -/
theorem State.Sized.mapAll {s t : State} (h : s.Sized) (f : Station → Station) (stations : t.stations = s.stations.map f)
    (rest : t.link = s.link ∧ t.clock = s.clock ∧ t.cue = s.cue) (kept : ∀ st : Station, st.Sized → (f st).Sized) :
    t.Sized := by
  obtain ⟨link, clock, cue⟩ := rest
  refine ⟨link ▸ h.link, clock ▸ h.map, cue ▸ h.cue, fun k => ?_⟩
  have : t.station k = f (s.station k) := by simp [State.station, stations]
  exact this ▸ kept _ (h.stations k)

/-- Every move of the part keeps the sizes of its lists. -/
theorem Move.keeps_sized {s t : State} (m : Move s t) (h : s.Sized) : t.Sized := by
  cases m with
  | inner move => exact move.keeps_sized h
  | clock f map => exact ⟨h.link, by rw [State.mapClock_clock, map]; exact h.map, h.cue, h.stations⟩
  | tempo f room idle map => exact ⟨h.link, room, h.cue, h.stations⟩
  | windows r w passed => exact h.mapAll _ rfl ⟨rfl, rfl, rfl⟩ fun _ sized => sized
  | scoring r x passed =>
    refine h.mapAll _ rfl ⟨rfl, rfl, rfl⟩ fun st sized => ?_
    simpa only [Station.Sized, List.length_map] using sized
  | ladder l passed => exact h.mapAll _ rfl ⟨rfl, rfl, rfl⟩ fun _ sized => sized
  | systemReset =>
    refine ⟨LinkMove.keeps_sized (.systemReset _) h.link, Nat.zero_le _, CueMove.keeps_sized (.systemReset _) h.cue,
      fun k => ?_⟩
    have : s.systemReset.station k = (s.station k).cleared := by
      simp [State.station, State.systemReset, Station.systemReset]
    rw [this]
    exact ⟨Nat.zero_le _, Nat.zero_le _, fun p => by cases p⟩
  | pinReset straps =>
    refine ⟨⟨Nat.zero_le _, Nat.zero_le _, Nat.zero_le _⟩, Nat.zero_le _, fun c => ?_, fun k => ?_⟩
    · have : (s.pinReset straps).cue.channels[c] = CueChannel.reset := by
        simp [State.pinReset, State.reset, CueEngine.reset]
      rw [this]
      exact Nat.zero_le _
    · have : (s.pinReset straps).station k = Station.reset := by simp [State.station, State.pinReset, State.reset]
      rw [this]
      exact ⟨Nat.zero_le _, Nat.zero_le _, fun p => by cases p⟩
  | time | scanner => exact ⟨h.link, h.map, h.cue, h.stations⟩

/-- Settles O57: every step is a chain of moves, and every move keeps the sizes and the order. -/
theorem listsStayWithinTheirSizes : Obligations.ListsStayWithinTheirSizes := by
  unfold Obligations.ListsStayWithinTheirSizes
  refine ⟨fun s t inv next => ?_, fun s t ordered next => ?_⟩
  · obtain ⟨reports, loss, room, map, cue, stations⟩ := inv
    have sized : State.Sized { s with pending := s.pending.tail } := ⟨⟨reports, loss, room⟩, map, cue, stations⟩
    obtain ⟨link, map', cue', stations'⟩ := (step_moves s t next).keep (fun _ _ => Move.keeps_sized) sized
    exact ⟨link.1, link.2.1, link.2.2, map', cue', stations'⟩
  · have start : State.Ordered { s with pending := s.pending.tail } := ordered
    exact (step_moves s t next).keep (fun _ _ => Move.keeps_ordered) start

end Sys2Proof.Machine
end

section
/-! SUPPORT. The tempo requests and the idle commands: what is checked of a segment, what a run of segments gives, and when
a command changes nothing. -/

namespace Sys2Proof.Machine

/-! ### Every command goes on (log 29) -/

/-- Every command goes on, in every state. -/
theorem exec_goesOn (c : Instr) (s : State) : ∃ t, exec c s = .next t := by
  cases c with
  | watchTimerExpiry => simp only [exec, execWatchTimerExpiry]; split <;> exact ⟨_, rfl⟩
  | haltTimerExpiry => simp only [exec, execHaltTimerExpiry]; split <;> exact ⟨_, rfl⟩
  | scanRoundStart => simp only [exec, execScanRoundStart]; split <;> exact ⟨_, rfl⟩
  | scanRoundEnd data =>
    simp only [exec, execScanRoundEnd]
    split
    · exact ⟨_, rfl⟩
    · split <;> exact ⟨_, rfl⟩
  | stepExpiry c => simp only [exec, execStepExpiry]; split <;> exact ⟨_, rfl⟩
  | gapTimerExpiry => simp only [exec, execGapTimerExpiry]; split <;> exact ⟨_, rfl⟩
  | frameTaken => simp only [exec, execFrameTaken]; split <;> exact ⟨_, rfl⟩
  | systemResetEvent => simp only [exec, execSystemResetEvent]; split <;> exact ⟨_, rfl⟩
  | _ => exact ⟨_, rfl⟩

/-- No command changes the queue of commands. -/
theorem exec_pending {c : Instr} {s t : State} (h : exec c s = .next t) : t.pending = s.pending :=
  (exec_moves c s t h).pending

/-! ### Commands whose event cannot happen (logs 3 to 5, 32) -/

theorem haltTimerExpiry_idle {s : State} (h : s.song.state ≠ .halted ∨ ∃ ms, s.song.halt = .stopped ms) :
    exec .haltTimerExpiry s = .next s := by
  simp only [exec, execHaltTimerExpiry]
  split
  · rename_i halted running
    rcases h with other | ⟨ms, stopped⟩
    · exact absurd halted other
    · rw [running] at stopped
      cases stopped
  · rfl

theorem scanRoundStart_idle {s : State} (h : s.scanner.round ≠ none) : exec .scanRoundStart s = .next s := by
  simp only [exec, execScanRoundStart]
  split
  · exact absurd ‹_› h
  · rfl

theorem gapTimerExpiry_idle {s : State} (h : ∀ since, s.link.gap ≠ .running since) :
    exec .gapTimerExpiry s = .next s := by
  simp only [exec, execGapTimerExpiry]
  split
  · exact absurd ‹_› (h _)
  · rfl
  · rfl

theorem frameTaken_idle {s : State} (h : s.link.slot ≠ none ∨ s.link.ended = [] ∨ s.link.resetDue = true) :
    exec .frameTaken s = .next s := by
  have shut : s.link.canTake = false := by
    simp only [LinkPort.canTake, LinkPort.frameDue, Bool.and_eq_false_iff, Option.isNone_eq_false_iff,
      Option.isSome_iff_ne_none, Bool.not_eq_false', List.isEmpty_iff]
    tauto
  simp only [exec, execFrameTaken, shut]

theorem transmitComplete_idle {s : State} (h : s.link.tx = none) : exec .transmitComplete s = .next s := by
  simp only [exec, execTransmitComplete, State.transmitDone, h]

/-- Settles O2: `exec_goesOn` and `exec_pending` for the commands, and one lemma for each event that cannot happen. -/
theorem everyCommandGoesOnAndIdleCommandsChangeNothing :
    Obligations.EveryCommandGoesOnAndIdleCommandsChangeNothing := by
  unfold Obligations.EveryCommandGoesOnAndIdleCommandsChangeNothing
  refine ⟨fun c s => ?_, fun s empty => ?_, fun s => ⟨fun h => ?_, haltTimerExpiry_idle, scanRoundStart_idle,
    fun data h => ?_, fun c h => ?_, gapTimerExpiry_idle, frameTaken_idle, transmitComplete_idle, fun h => ?_⟩⟩
  · obtain ⟨t, next⟩ := exec_goesOn c s
    exact ⟨t, next, exec_pending next⟩
  · simp only [step, empty]
  · simp only [exec, execWatchTimerExpiry, h]
  · simp only [exec, execScanRoundEnd, h]
  · simp only [exec, execStepExpiry, h]
  · simp only [exec, execSystemResetEvent, h, Bool.false_eq_true, if_false]

/-! ### When the tempo map may change (R7, R8, R11) -/

theorem active_iff (s : State) : s.song.state.active = true ↔ s.songActive := by
  unfold State.songActive
  cases s.song.state <;> simp [SongState.active]

theorem anyQueued_iff (s : State) : s.anyQueued = true ↔ ∃ k, (s.station k).queue ≠ [] := by
  rw [← not_iff_not, Bool.not_eq_true, not_exists]
  refine ⟨fun h k => not_not_intro (anyQueued_false h k), fun h => List.any_eq_false.mpr fun k _ => ?_⟩
  simpa using h k

/-- R7, R8: the tempo requests are refused with STATE in an active song or while an entry is queued. -/
theorem tempoLocked_iff (s : State) :
    (s.song.state.active || s.anyQueued) = true ↔ s.songActive ∨ ∃ k, (s.station k).queue ≠ [] := by
  rw [Bool.or_eq_true, active_iff, anyQueued_iff]

theorem tempoFree {s : State} (idle : ¬ s.songActive) (empty : ∀ k, (s.station k).queue = []) :
    ¬ (s.song.state.active || s.anyQueued) = true := by
  rw [tempoLocked_iff]
  rintro (active | ⟨k, queued⟩)
  · exact idle active
  · exact queued (empty k)

/-- A request that leaves the part as it is, but for its reply. -/
theorem submit_refused {i : Instr} {take : State → State × Reply} {s : State} {r : Reply} (wf : i.wf = true) (h : s.ready)
    (taken : take s = (s, r)) : s.submit i take = s.replied r :=
  submit_eq wf h taken rfl rfl rfl rfl rfl

/-- A request that changes the song clock and nothing else, but for its reply. -/
theorem submit_clock {i : Instr} {take : State → State × Reply} {s : State} {f : SongClock → SongClock} {r : Reply}
    (wf : i.wf = true) (h : s.ready) (taken : take s = (s.mapClock f, r)) :
    s.submit i take = (s.mapClock f).replied r :=
  submit_eq wf h taken rfl rfl rfl rfl rfl

/-- Settles O15: the two branches of `takeTempoClear`, each answered at once. -/
theorem tempoClearResult : Obligations.TempoClearResult := by
  unfold Obligations.TempoClearResult
  refine fun origin s ready => ⟨fun locked => ?_, fun idle empty => ?_⟩
  · have taken : takeTempoClear origin s = (s, replyFor (.tempoClear origin) .state []) :=
      if_pos ((tempoLocked_iff s).mpr locked)
    exact congrArg _ (submit_refused rfl ready taken)
  · have inactive : ¬ s.songActive := by
      unfold State.songActive
      rcases idle with h | h <;> simp [h]
    have taken : takeTempoClear origin s =
        (s.mapClock fun c => { c with map := [], origin := origin.toInt }, replyFor (.tempoClear origin) .ok []) :=
      if_neg (tempoFree inactive empty)
    exact congrArg _ (submit_clock rfl ready taken)

/-! ### The checks of one segment (R6, R9) -/

/-- R9, check 1: the values that a record's kind asks of it. -/
def OwnValues (r : SegmentRec) : Prop :=
  (r.kind = 0#8 ∧ 65536 ≤ r.fpbRaw.toNat ∧ 1 ≤ r.beats.toNat ∧ r.beats.toNat ≤ 16) ∨
    (r.kind = 1#8 ∧ 1 ≤ r.stopLength.toNat ∧ r.stopLength.toNat ≤ 16777216)

/-- R5: the body that a record of a known kind carries. -/
def carriedBody (r : SegmentRec) : SegmentBody :=
  if r.kind = 0#8 then .beat r.fpbRaw.toNat r.beats.toNat else .stop r.stopLength.toNat

/-- R9, check 1: a record of legal values gives its body. -/
theorem segmentBodyOf_own {r : SegmentRec} (h : OwnValues r) : segmentBodyOf r = some (carriedBody r) := by
  rcases h with ⟨beat, legal⟩ | ⟨stop, legal⟩
  · simp [segmentBodyOf, carriedBody, beat, legal]
  · simp [segmentBodyOf, carriedBody, stop, legal]

/-- R9, check 1: a record of other values is refused. -/
theorem segmentBodyOf_not_own {r : SegmentRec} (h : ¬ OwnValues r) : segmentBodyOf r = none := by
  unfold segmentBodyOf
  split
  · rename_i beat
    exact if_neg fun legal => h (.inl ⟨BitVec.eq_of_toNat_eq beat, legal⟩)
  · rename_i stop
    exact if_neg fun legal => h (.inr ⟨BitVec.eq_of_toNat_eq stop, legal⟩)
  · rfl

theorem carriedBody_isBeat (r : SegmentRec) : (carriedBody r).isBeat = decide (r.kind = 0#8) := by
  unfold carriedBody
  split <;> simp [SegmentBody.isBeat, *]

theorem isBeat_iff (body : SegmentBody) : body.isBeat = true ↔ ∃ fpb beats, body = .beat fpb beats := by
  cases body <;> simp [SegmentBody.isBeat]

theorem not_isBeat_iff (body : SegmentBody) : body.isBeat = false ↔ ∃ length, body = .stop length := by
  cases body <;> simp [SegmentBody.isBeat]

/-- R9: what the first segment of an empty map is checked for. -/
theorem checkSegment_first {r : SegmentRec} (own : OwnValues r) (origin : Int) :
    checkSegment origin none r =
      if r.kind = 0#8 ∧ r.startTick.toNat = 0 ∧ inFrameRange origin = true then
        .ok { startTick := 0, startFrame := origin, body := carriedBody r }
      else .error .badValue := by
  simp only [checkSegment, segmentBodyOf_own own, carriedBody_isBeat]
  by_cases beat : r.kind = 0#8 <;> by_cases zero : r.startTick.toNat = 0 <;> simp [beat, zero]

/-- R9: what a segment behind another is checked for, in the order of the checks. -/
theorem checkSegment_next {r : SegmentRec} (own : OwnValues r) (origin : Int) (b : Segment) :
    checkSegment origin (some b) r =
      if r.startTick.toNat < b.startTick then .error .order
      else if b.body.isBeat = false ∧ b.startTick < r.startTick.toNat then .error .order
      else if r.startTick.toNat = b.startTick ∧ b.body.isBeat = true then .error .duplicate
      else if inFrameRange (b.nextStart r.startTick.toNat) = false then .error .badValue
      else .ok { startTick := r.startTick.toNat, startFrame := b.nextStart r.startTick.toNat, body := carriedBody r } := by
  simp only [checkSegment, segmentBodyOf_own own, Bool.and_eq_true, Bool.not_eq_true', decide_eq_true_eq]

theorem inFrameRange_iff (f : Int) : inFrameRange f = true ↔ -2147483648 ≤ f ∧ f ≤ 2147483647 := decide_eq_true_iff

theorem not_inFrameRange_iff (f : Int) : inFrameRange f = false ↔ f < -2147483648 ∨ 2147483647 < f := by
  rw [inFrameRange, decide_eq_false_iff_not]
  omega

/-- R6: the start frame of a segment behind another, by the kind of that one. -/
theorem nextStart_eq {b : Segment} {tick : Nat} {start : Int}
    (beat : ∀ fpb beats, b.body = .beat fpb beats →
      start = b.startFrame + Int.ofNat ((tick - b.startTick) * fpb / 3145728))
    (stop : ∀ length, b.body = .stop length → start = b.startFrame + Int.ofNat length) : b.nextStart tick = start := by
  unfold Segment.nextStart
  split
  · exact (beat _ _ ‹_›).symm
  · exact (stop _ ‹_›).symm

/-- A segment behind another passes checks 2 and 3 after a BEAT at a later tick, and after a STOP at its own. -/
theorem checkSegment_behind {r : SegmentRec} (own : OwnValues r) (origin : Int) {b : Segment}
    (place : (b.startTick < r.startTick.toNat ∧ b.body.isBeat = true) ∨
      (r.startTick.toNat = b.startTick ∧ b.body.isBeat = false)) :
    checkSegment origin (some b) r =
      if inFrameRange (b.nextStart r.startTick.toNat) = false then .error .badValue
      else .ok { startTick := r.startTick.toNat, startFrame := b.nextStart r.startTick.toNat, body := carriedBody r } := by
  rw [checkSegment_next own, if_neg, if_neg, if_neg] <;> rcases place with ⟨tick, kind⟩ | ⟨tick, kind⟩ <;>
    simp [kind] <;> omega

/-! ### A run of segments (R8, R9) -/

theorem appendSegments_cons_error {origin : Int} {map : List Segment} {r : SegmentRec} {rest : List SegmentRec} {i : Nat}
    {c : Code} (h : checkSegment origin map.getLast? r = .error c) :
    appendSegments origin map (r :: rest) i = .error (c, i) := by
  simp only [appendSegments, h]

theorem appendSegments_cons_ok {origin : Int} {map : List Segment} {r : SegmentRec} {rest : List SegmentRec} {i : Nat}
    {seg : Segment} (h : checkSegment origin map.getLast? r = .ok seg) :
    appendSegments origin map (r :: rest) i = appendSegments origin (map ++ [seg]) rest (i + 1) := by
  simp only [appendSegments, h]

/-- R9: the segments of a request are checked one after another, each as if those before it were appended. -/
theorem appendSegments_append {origin : Int} {map taken : List Segment} {before rest : List SegmentRec} {i : Nat}
    (h : appendSegments origin map before i = .ok taken) :
    appendSegments origin map (before ++ rest) i = appendSegments origin taken rest (i + before.length) := by
  induction before generalizing map i with
  | nil =>
    cases h
    rfl
  | cons r before ih =>
    cases passed : checkSegment origin map.getLast? r with
    | error c =>
      rw [appendSegments_cons_error passed] at h
      cases h
    | ok seg =>
      rw [appendSegments_cons_ok passed] at h
      rw [List.cons_append, appendSegments_cons_ok passed, ih h, List.length_cons, Nat.add_assoc, Nat.add_comm 1]

/-- R8, R9: the new map is the old map followed by the new segments in their order, each checked against the segment
before it. -/
theorem appendSegments_spec {origin : Int} {map taken : List Segment} {rs : List SegmentRec} {i : Nat}
    (h : appendSegments origin map rs i = .ok taken) :
    taken.take map.length = map ∧ ∀ j r, rs[j]? = some r → ∃ seg, taken[map.length + j]? = some seg ∧
      checkSegment origin (taken.take (map.length + j)).getLast? r = .ok seg := by
  induction rs generalizing map i with
  | nil =>
    cases h
    exact ⟨List.take_length, nofun⟩
  | cons r rest ih =>
    cases passed : checkSegment origin map.getLast? r with
    | error c =>
      rw [appendSegments_cons_error passed] at h
      cases h
    | ok seg =>
      rw [appendSegments_cons_ok passed] at h
      obtain ⟨front, behind⟩ := ih h
      rw [List.length_append, List.length_singleton] at front behind
      have old : taken.take map.length = map := by
        have := congrArg (List.take map.length) front
        simpa [List.take_take] using this
      refine ⟨old, fun j x here => ?_⟩
      cases j with
      | zero =>
        obtain rfl := Option.some.inj here
        refine ⟨seg, ?_, by rw [Nat.add_zero, old]; exact passed⟩
        have := congrArg (fun l : List Segment => l[map.length]?) front
        simpa using this
      | succ j =>
        rw [show map.length + (j + 1) = map.length + 1 + j by omega]
        exact behind j x here

/-- R8: TEMPO_PUT whose segments are refused: the code and the index of the refused segment. -/
theorem takeTempoPut_refused {s : State} {segments : List SegmentRec} {c : Code} {index : Nat}
    (free : ¬ (s.song.state.active || s.anyQueued) = true) (room : s.clock.map.length + segments.length ≤ 64)
    (refused : appendSegments s.clock.origin s.clock.map segments 0 = .error (c, index)) :
    takeTempoPut segments s = (s, replyFor (.tempoPut segments) c (num8 index)) := by
  simp only [takeTempoPut, if_neg free, if_neg (Nat.not_lt.mpr room), refused]

/-- R8: TEMPO_PUT whose segments pass: the new map. -/
theorem takeTempoPut_taken {s : State} {segments : List SegmentRec} {taken : List Segment} {last : Segment}
    (free : ¬ (s.song.state.active || s.anyQueued) = true) (room : s.clock.map.length + segments.length ≤ 64)
    (passed : appendSegments s.clock.origin s.clock.map segments 0 = .ok taken) (behind : taken.getLast? = some last) :
    takeTempoPut segments s =
      (s.mapClock fun c => { c with map := taken },
        replyFor (.tempoPut segments) .ok (num8 taken.length ++ int32 last.startFrame)) := by
  simp only [takeTempoPut, if_neg free, if_neg (Nat.not_lt.mpr room), passed, behind, Option.elim_some]

/-- Settles O16: the branches of `takeTempoPut`, of `checkSegment` and of `appendSegments`. -/
theorem tempoPutAndItsSegments : Obligations.TempoPutAndItsSegments := by
  unfold Obligations.TempoPutAndItsSegments
  refine ⟨fun segments s ready least most => ?_, fun origin before r => ?_,
    fun origin map i => ⟨rfl, fun r rest => ⟨fun seg => appendSegments_cons_ok, fun c => appendSegments_cons_error⟩⟩⟩
  · have wf : (Instr.tempoPut segments).wf = true := decide_eq_true ⟨least, most⟩
    refine ⟨fun locked => ?_, fun idle empty => ⟨fun tooMany => ?_, fun room => ⟨?_, ?_⟩⟩,
      fun origin map taken i h => ?_⟩
    · have taken : takeTempoPut segments s = (s, replyFor (.tempoPut segments) .state []) :=
        if_pos ((tempoLocked_iff s).mpr locked)
      exact congrArg _ (submit_refused wf ready taken)
    · have taken : takeTempoPut segments s = (s, replyFor (.tempoPut segments) .full []) := by
        simp only [takeTempoPut, if_neg (tempoFree idle empty), if_pos tooMany]
      exact congrArg _ (submit_refused wf ready taken)
    · rintro before r after c taken rfl passed refused
      have outcome := (appendSegments_append passed).trans (appendSegments_cons_error (rest := after) refused)
      rw [Nat.zero_add] at outcome
      exact congrArg _ (submit_refused wf ready (takeTempoPut_refused (tempoFree idle empty) room outcome))
    · intro taken last passed behind
      exact congrArg _ (submit_clock wf ready (takeTempoPut_taken (tempoFree idle empty) room passed behind))
    · obtain ⟨front, each⟩ := appendSegments_spec h
      exact ⟨front, appendSegments_length h, each⟩
  · refine ⟨fun own => ?_, fun own first other => ?_, fun own first beat zero low high => ?_,
      fun b start own behind frame => ?_⟩
    · simp only [checkSegment, segmentBodyOf_not_own own]
    · rw [first, checkSegment_first own, if_neg]
      tauto
    · rw [first, checkSegment_first own, if_pos ⟨beat, zero, (inFrameRange_iff _).mpr ⟨low, high⟩⟩]
      rfl
    · subst behind
      have next := nextStart_eq frame.1 frame.2
      refine ⟨fun lt => ?_, fun gt stop => ?_, fun same beat => ?_, fun place => ?_⟩
      · rw [checkSegment_next own, if_pos lt]
      · rw [checkSegment_next own, if_neg (by omega), if_pos ⟨(not_isBeat_iff _).mpr stop, gt⟩]
      · have isBeat := (isBeat_iff _).mpr beat
        rw [checkSegment_next own, if_neg (by omega), if_neg (by simp [isBeat]), if_pos ⟨same, isBeat⟩]
      · rw [← isBeat_iff, ← not_isBeat_iff] at place
        rw [checkSegment_behind own origin place, next]
        refine ⟨fun out => if_pos ((not_inFrameRange_iff _).mpr out), fun low high => ?_⟩
        rw [if_neg (by rw [(inFrameRange_iff _).mpr ⟨low, high⟩]; decide)]
        rfl

end Sys2Proof.Machine
end

section
/-! SUPPORT. Measure pulses: which pulse of a segment is the first at or after a frame, and which pulse of a map. -/

namespace Sys2Proof.Machine

/-! ### The pulses of one segment (R12) -/

/-- R12: the ticks from one pulse of a segment to the next. -/
def measureTicks (beats : Nat) : Nat := 48 * beats

/-- R12: the frame of pulse j of a BEAT segment. -/
def Segment.pulseFrame (seg : Segment) (fpbRaw beats j : Nat) : Int :=
  seg.startFrame + framesOf (j * measureTicks beats) fpbRaw

/-- R12: the pulse p stands in the segment of an index, before the segment behind it. -/
def Segment.Stands (seg : Segment) (index : Nat) (next : Option Segment) (p : Pulse) : Prop :=
  p.segment = index ∧ ∃ fpbRaw beats, seg.body = .beat fpbRaw beats ∧
    (∀ n, next = some n → seg.startTick + p.index * measureTicks beats < n.startTick) ∧
    p.frame = seg.pulseFrame fpbRaw beats p.index ∧ p.frame ≤ 2147483647

/-- R12: a later pulse of a segment has no earlier frame. -/
theorem Segment.pulseFrame_mono (seg : Segment) (fpbRaw beats : Nat) {i j : Nat} (h : i ≤ j) :
    seg.pulseFrame fpbRaw beats i ≤ seg.pulseFrame fpbRaw beats j :=
  Int.add_le_add_left (framesOf_mono fpbRaw (Nat.mul_le_mul_right _ h)) _

/-- R12, R13: the number of the first pulse of a BEAT segment at or after a frame, as the model computes it. -/
def Segment.firstIndex (seg : Segment) (fpbRaw beats : Nat) (f : Int) : Nat :=
  ((f - seg.startFrame).toNat * tempoDivisor + measureTicks beats * fpbRaw - 1) / (measureTicks beats * fpbRaw)

/-- R12, R13: pulse j is at or after the frame f exactly where j is not below the computed number. -/
theorem Segment.le_pulseFrame_iff (seg : Segment) {fpbRaw beats : Nat} (fpb : 1 ≤ fpbRaw) (beat : 1 ≤ beats) (f : Int)
    (j : Nat) : f ≤ seg.pulseFrame fpbRaw beats j ↔ seg.firstIndex fpbRaw beats f ≤ j := by
  have ahead : f ≤ seg.pulseFrame fpbRaw beats j ↔
      (f - seg.startFrame).toNat ≤ j * measureTicks beats * fpbRaw / tempoDivisor := by
    simp only [Segment.pulseFrame, framesOf, Int.ofNat_eq_natCast]
    generalize j * measureTicks beats * fpbRaw / tempoDivisor = frames
    omega
  have positive : 0 < measureTicks beats * fpbRaw := Nat.mul_pos (Nat.mul_pos (by decide) beat) fpb
  have split : j * measureTicks beats * fpbRaw = j * (measureTicks beats * fpbRaw) := Nat.mul_assoc _ _ _
  rw [ahead, Nat.le_div_iff_mul_le (by decide), split, Segment.firstIndex]
  generalize measureTicks beats * fpbRaw = width at positive
  generalize (f - seg.startFrame).toNat * tempoDivisor = total
  rw [Nat.div_le_iff_le_mul_add_pred positive, Nat.mul_comm j]
  omega

/-- R12: what the first pulse of a BEAT segment rests on. -/
theorem Segment.firstPulse_beat {seg : Segment} {fpbRaw beats : Nat} (body : seg.body = .beat fpbRaw beats) (index : Nat)
    (next : Option Segment) (f : Int) :
    seg.firstPulse index next f =
      let j := seg.firstIndex fpbRaw beats f
      if (∀ n, next = some n → seg.startTick + j * measureTicks beats < n.startTick) ∧
          seg.pulseFrame fpbRaw beats j ≤ 2147483647 then
        some { segment := index, index := j, frame := seg.pulseFrame fpbRaw beats j }
      else none := by
  cases next <;>
    simp [Segment.firstPulse, body, Segment.firstIndex, Segment.pulseFrame, measureTicks]

/-- R13: the placing order of pulses. -/
def Pulse.NotAfter (p q : Pulse) : Prop := p.segment < q.segment ∨ (p.segment = q.segment ∧ p.index ≤ q.index)

/-- R12, R13: the pulse found in a segment stands there, at or after the frame, and is the first that does. -/
theorem Segment.firstPulse_some {seg : Segment} {index : Nat} {next : Option Segment} {f : Int} {p : Pulse}
    (legal : ∀ fpb beats, seg.body = .beat fpb beats → 1 ≤ fpb ∧ 1 ≤ beats) (h : seg.firstPulse index next f = some p) :
    seg.Stands index next p ∧ f ≤ p.frame ∧ ∀ q, seg.Stands index next q → f ≤ q.frame → p.NotAfter q := by
  cases body : seg.body with
  | stop length =>
    rw [Segment.firstPulse, body] at h
    cases h
  | beat fpbRaw beats =>
    obtain ⟨fpb, beat⟩ := legal fpbRaw beats body
    rw [Segment.firstPulse_beat body] at h
    simp only at h
    split at h
    · rename_i stands
      obtain rfl := Option.some.inj h
      refine ⟨⟨rfl, fpbRaw, beats, body, stands.1, rfl, stands.2⟩, (seg.le_pulseFrame_iff fpb beat f _).mpr (Nat.le_refl _),
        ?_⟩
      rintro q ⟨here, _, _, body', _, frame, _⟩ behind
      obtain ⟨rfl, rfl⟩ := SegmentBody.beat.inj (body.symm.trans body')
      rw [frame, seg.le_pulseFrame_iff fpb beat] at behind
      exact .inr ⟨here.symm, behind⟩
    · cases h

/-- R12, R13: where no pulse is found in a segment, all that stand there lie before the frame. -/
theorem Segment.firstPulse_none {seg : Segment} {index : Nat} {next : Option Segment} {f : Int}
    (legal : ∀ fpb beats, seg.body = .beat fpb beats → 1 ≤ fpb ∧ 1 ≤ beats) (h : seg.firstPulse index next f = none) :
    ∀ q, seg.Stands index next q → q.frame < f := by
  rintro q ⟨here, fpbRaw, beats, body, before, frame, range⟩
  obtain ⟨fpb, beat⟩ := legal fpbRaw beats body
  rw [Segment.firstPulse_beat body] at h
  by_contra behind
  have first := (seg.le_pulseFrame_iff fpb beat f q.index).mp (frame ▸ Int.not_lt.mp behind)
  rw [if_pos] at h
  · cases h
  · refine ⟨fun n e => Nat.lt_of_le_of_lt ?_ (before n e), Int.le_trans (seg.pulseFrame_mono fpbRaw beats first) (frame ▸ range)⟩
    exact Nat.add_le_add_left (Nat.mul_le_mul_right _ first) _

/-! ### The pulses of a map (R12, R13) -/

/-- R12: the pulse p stands in a map whose first segment has an index. -/
def PulseStands (map : List Segment) (base : Nat) (p : Pulse) : Prop :=
  ∃ (i : Nat) (seg : Segment), map[i]? = some seg ∧ seg.Stands (base + i) map[i + 1]? p

theorem pulseStands_cons {seg : Segment} {rest : List Segment} {base : Nat} {p : Pulse} :
    PulseStands (seg :: rest) base p ↔ seg.Stands base rest.head? p ∨ PulseStands rest (base + 1) p := by
  constructor
  · rintro ⟨i, x, found, stands⟩
    cases i with
    | zero =>
      obtain rfl := Option.some.inj found
      exact .inl (by simpa [List.head?_eq_getElem?] using stands)
    | succ i => exact .inr ⟨i, x, found, by rw [Nat.add_assoc, Nat.add_comm 1]; exact stands⟩
  · rintro (stands | ⟨i, x, found, stands⟩)
    · exact ⟨0, seg, rfl, by simpa [List.head?_eq_getElem?] using stands⟩
    · exact ⟨i + 1, x, found, by rw [Nat.add_assoc, Nat.add_comm 1] at stands; exact stands⟩

/-- R12: no pulse of a map stands in a segment before its first. -/
theorem PulseStands.base_le {map : List Segment} {base : Nat} {p : Pulse} (h : PulseStands map base p) :
    base ≤ p.segment := by
  obtain ⟨i, seg, _, here, _⟩ := h
  omega

/-- R5: the rates and measures that a map's BEATs need for their pulses. -/
def BeatsLegal (map : List Segment) : Prop :=
  ∀ seg ∈ map, ∀ fpb beats, seg.body = .beat fpb beats → 1 ≤ fpb ∧ 1 ≤ beats

/-- R13: the pulse found in a map stands there, at or after the frame, and is the first that does in placing order. -/
theorem firstPulse_some {map : List Segment} {base : Nat} {f : Int} {p : Pulse} (legal : BeatsLegal map)
    (h : firstPulse map base f = some p) :
    PulseStands map base p ∧ f ≤ p.frame ∧ ∀ q, PulseStands map base q → f ≤ q.frame → p.NotAfter q := by
  induction map generalizing base with
  | nil => cases h
  | cons seg rest ih =>
    have here := legal seg (.head _)
    have others : BeatsLegal rest := fun x mem => legal x (.tail _ mem)
    rw [firstPulse] at h
    split at h
    · rename_i found
      cases h
      obtain ⟨stands, behind, first⟩ := Segment.firstPulse_some here found
      refine ⟨pulseStands_cons.mpr (.inl stands), behind, fun q q_stands q_behind => ?_⟩
      rcases pulseStands_cons.mp q_stands with q_here | q_later
      · exact first q q_here q_behind
      · exact .inl (stands.1 ▸ q_later.base_le)
    · rename_i none
      obtain ⟨stands, behind, first⟩ := ih others h
      refine ⟨pulseStands_cons.mpr (.inr stands), behind, fun q q_stands q_behind => ?_⟩
      rcases pulseStands_cons.mp q_stands with q_here | q_later
      · exact absurd (Segment.firstPulse_none here none q q_here) (Int.not_lt.mpr q_behind)
      · exact first q q_later q_behind

/-- R13: where no pulse is found in a map, all that stand there lie before the frame. -/
theorem firstPulse_none {map : List Segment} {base : Nat} {f : Int} (legal : BeatsLegal map)
    (h : firstPulse map base f = none) : ∀ q, PulseStands map base q → q.frame < f := by
  induction map generalizing base with
  | nil => exact fun q ⟨_, _, found, _⟩ => by cases found
  | cons seg rest ih =>
    rw [firstPulse] at h
    split at h
    · cases h
    · rename_i none
      intro q stands
      rcases pulseStands_cons.mp stands with here | later
      · exact Segment.firstPulse_none (legal seg (.head _)) none q here
      · exact ih (fun x mem => legal x (.tail _ mem)) h q later

/-- R12: a pulse of a map is known by its segment and its number there. -/
theorem PulseStands.ext {map : List Segment} {base : Nat} {p q : Pulse} (hp : PulseStands map base p)
    (hq : PulseStands map base q) (segment : p.segment = q.segment) (index : p.index = q.index) : p = q := by
  obtain ⟨i, x, foundX, hereX, fpb, beats, body, _, frame, _⟩ := hp
  obtain ⟨j, y, foundY, hereY, fpb', beats', body', _, frame', _⟩ := hq
  obtain rfl : i = j := by omega
  obtain rfl := Option.some.inj (foundX.symm.trans foundY)
  obtain ⟨rfl, rfl⟩ := SegmentBody.beat.inj (body.symm.trans body')
  have frames : p.frame = q.frame := by rw [frame, frame', index]
  cases p
  cases q
  simp_all

/-- R13: the first pulse is the first of those that stand at or after the frame. -/
theorem firstPulse_eq_some_iff {map : List Segment} {base : Nat} {f : Int} {p : Pulse} (legal : BeatsLegal map) :
    firstPulse map base f = some p ↔
      PulseStands map base p ∧ f ≤ p.frame ∧ ∀ q, PulseStands map base q → f ≤ q.frame → p.NotAfter q := by
  refine ⟨firstPulse_some legal, fun ⟨stands, behind, first⟩ => ?_⟩
  cases found : firstPulse map base f with
  | none => exact absurd (firstPulse_none legal found p stands) (Int.not_lt.mpr behind)
  | some q =>
    obtain ⟨q_stands, q_behind, q_first⟩ := firstPulse_some legal found
    have one := first q q_stands q_behind
    have two := q_first p stands behind
    unfold Pulse.NotAfter at one two
    exact congrArg some (q_stands.ext stands (by omega) (by omega))

/-- R13: there is no first pulse exactly where every pulse lies before the frame. -/
theorem firstPulse_eq_none_iff {map : List Segment} {base : Nat} {f : Int} (legal : BeatsLegal map) :
    firstPulse map base f = none ↔ ∀ q, PulseStands map base q → q.frame < f := by
  refine ⟨firstPulse_none legal, fun all => ?_⟩
  cases found : firstPulse map base f with
  | none => rfl
  | some p =>
    obtain ⟨stands, behind, _⟩ := firstPulse_some legal found
    exact absurd (all p stands) (Int.not_lt.mpr behind)

/-- R12: where a pulse stands, told by the segment that its own number names. -/
theorem pulseStands_zero_iff {map : List Segment} {p : Pulse} :
    PulseStands map 0 p ↔ ∃ seg fpb beats, map[p.segment]? = some seg ∧ seg.body = .beat fpb beats ∧
      (∀ next, map[p.segment + 1]? = some next → seg.startTick + p.index * (48 * beats) < next.startTick) ∧
      p.frame = seg.startFrame + Int.ofNat (p.index * (48 * beats) * fpb / 3145728) ∧ p.frame ≤ 2147483647 := by
  constructor
  · rintro ⟨i, seg, found, here, fpb, beats, body, before, frame, range⟩
    obtain rfl : p.segment = i := by omega
    exact ⟨seg, fpb, beats, found, body, before, frame, range⟩
  · rintro ⟨seg, fpb, beats, found, body, before, frame, range⟩
    exact ⟨p.segment, seg, found, by omega, fpb, beats, body, before, frame, range⟩

/-! ### The conversion of a tick (R10) -/

/-- R10: the frame of a tick in its governing segment, by the kind of that one. -/
theorem frameOf_eq {seg : Segment} {tick : Nat} {frame : Int}
    (beat : ∀ fpb beats, seg.body = .beat fpb beats →
      frame = seg.startFrame + Int.ofNat ((tick - seg.startTick) * fpb / 3145728))
    (stop : ∀ length, seg.body = .stop length → frame = seg.startFrame) : seg.frameOf tick = frame := by
  unfold Segment.frameOf
  split
  · exact (beat _ _ ‹_›).symm
  · exact (stop _ ‹_›).symm

/-- R10: the conversion of a tick whose governing segment is known. -/
theorem convert_governed {map : List Segment} {tick : Nat} {seg : Segment} (h : governing map tick = some seg) :
    convert map tick = if inFrameRange (seg.frameOf tick) then .frame (seg.frameOf tick) else .outOfRange := by
  simp only [convert, h]

/-- Settles O17: the governing segment (`governing_first`, `governing_last`), the pulses (`firstPulse_eq_some_iff`,
`firstPulse_eq_none_iff`) and `convert_mono`. -/
theorem tickConversionAndMeasurePulses : Obligations.TickConversionAndMeasurePulses := by
  unfold Obligations.TickConversionAndMeasurePulses
  refine ⟨fun before after seg tick frame place kind => ?_, fun map f legal => ?_,
    fun map a b f g ok le hf hg => convert_mono ok le hf hg⟩
  · have governs : governing (before ++ seg :: after) tick = some seg := by
      rcases place with ⟨earlier, rfl⟩ | ⟨lt, none, later⟩
      · exact governing_first earlier
      · exact governing_last lt none later
    rw [convert_governed governs, frameOf_eq kind.1 kind.2]
    refine ⟨rfl, fun low high => if_pos (decide_eq_true ⟨low, high⟩), fun out => if_neg fun range => ?_⟩
    have := of_decide_eq_true range
    omega
  · simp only [← pulseStands_zero_iff]
    exact ⟨fun p => firstPulse_eq_some_iff legal, firstPulse_eq_none_iff legal⟩

end Sys2Proof.Machine
end

section
/-! SUPPORT. Whose record an operation touches: `Aside` says of posts, reports and triggers that they touch no station and
not song control; `Own` says of everything an engine does that it touches its own station alone, and hands song control no
more than an end event. -/

namespace Sys2Proof.Machine

/-! ### What touches neither a station nor song control -/

/-- Neither a station record nor song control's record is touched, and no time passes. -/
structure Aside (s t : State) : Prop where
  stations : t.stations = s.stations
  song : t.song = s.song
  refTime : t.refTime = s.refTime

theorem Aside.refl (s : State) : Aside s s := ⟨rfl, rfl, rfl⟩

theorem Aside.trans {s t u : State} (h : Aside s t) (g : Aside t u) : Aside s u :=
  ⟨g.stations.trans h.stations, g.song.trans h.song, g.refTime.trans h.refTime⟩

theorem Aside.station {s t : State} (h : Aside s t) (k : StationId) : t.station k = s.station k := by
  rw [State.station, h.stations, State.station]

/-- Deciding open orders touches neither. -/
theorem choices_aside (s : State) (cs : List Nat) (count : Nat) :
    Aside s { s with choices := cs, choiceCount := count } := ⟨rfl, rfl, rfl⟩

theorem cue_aside (s : State) (e : CueEngine) : Aside s { s with cue := e } := ⟨rfl, rfl, rfl⟩

theorem foldl_aside {α : Type} {f : State → α → State} (h : ∀ s a, Aside s (f s a)) (as : List α) (s : State) :
    Aside s (as.foldl f s) := by
  induction as generalizing s with
  | nil => exact .refl s
  | cons a as ih => exact (h s a).trans (ih _)

theorem choose_aside (n : Nat) (s : State) : Aside s (s.choose n).2 := by
  rw [choose_snd]
  exact choices_aside s _ _

theorem choose_split_aside (n : Nat) {s t : State} {c : Nat} (e : s.choose n = (c, t)) : Aside s t := by
  have h := choose_aside n s
  rwa [e] at h

theorem chooseIf_aside (b : Bool) (s : State) : Aside s (s.chooseIf b).2 := by
  rw [chooseIf_snd]
  split
  · exact choose_aside 2 s
  · exact .refl s

theorem shuffle_aside {α : Type} (n : Nat) (as : List α) (s : State) : Aside s (shuffle n as s).2 := by
  obtain ⟨cs, count, e⟩ := shuffle_keeps n as s
  rw [e]
  exact choices_aside s cs count

theorem inAnyOrder_aside {α : Type} {f : α → State → State} (h : ∀ a s, Aside s (f a s)) (as : List α) (s : State) :
    Aside s (inAnyOrder f as s) :=
  (shuffle_aside _ _ s).trans (foldl_aside (fun s a => h a s) _ _)

theorem interleaveAll_aside {α : Type} {f : α → State → State} (h : ∀ a s, Aside s (f a s)) (ss : List (List α))
    (s : State) : Aside s (interleaveAll f ss s) := by
  obtain ⟨order, cs, count, _, _, e⟩ := interleaveAll_spec f ss s
  rw [e]
  exact (choices_aside s cs count).trans (foldl_aside (fun s a => h a s) order _)

theorem takeOffer_aside (r : Report) (s : State) : Aside s (s.takeOffer r) := by
  unfold State.takeOffer
  split
  · exact .refl s
  · split
    · split <;> (rename_i e; exact (choose_split_aside 2 e).trans ⟨rfl, rfl, rfl⟩)
    · exact ⟨rfl, rfl, rfl⟩

theorem offer_aside (r : Report) (s : State) : Aside s (s.offer r) := by
  unfold State.offer
  split
  · exact ⟨rfl, rfl, rfl⟩
  · exact takeOffer_aside r s

theorem notify_aside (n : Notice) (s : State) : Aside s (s.notify n) := offer_aside _ s

theorem offerAll_aside (rs : List Report) (s : State) : Aside s (rs.foldl (fun s r => s.offer r) s) :=
  foldl_aside (fun s r => offer_aside r s) rs s

theorem offerAny_aside (rs : List Report) (s : State) : Aside s (s.offerAny rs) := inAnyOrder_aside offer_aside rs s

theorem offerStreams_aside (ss : List (List Report)) (s : State) : Aside s (s.offerStreams ss) :=
  interleaveAll_aside offer_aside ss s

theorem offerNowOrLater_aside (rs : List Report) (s : State) : Aside s (s.offerNowOrLater rs) := by
  unfold State.offerNowOrLater
  split
  · exact .refl s
  · split <;> (rename_i e; refine (choose_split_aside 2 e).trans ?_)
    · exact offerAny_aside _ _
    · exact ⟨rfl, rfl, rfl⟩

theorem raise_aside (g : Trigger) (s : State) : Aside s (s.raise g).1 := by
  unfold State.raise
  split
  · exact ⟨rfl, rfl, rfl⟩
  · exact (shuffle_aside _ _ s).trans (cue_aside _ _)

theorem raiseNow_aside (g : Trigger) (s : State) : Aside s (s.raiseNow g) :=
  (raise_aside g s).trans (offerAll_aside _ _)

theorem takePost_aside (p : Post) (s : State) : Aside s (s.takePost p) := by
  unfold State.takePost
  split
  · exact offer_aside _ s
  · exact (cue_aside s _).trans (foldl_aside (fun s n => notify_aside n s) _ _)

theorem postsDeliver_aside (ss : List (List Post)) (s : State) : Aside s (s.deliver ss) :=
  interleaveAll_aside takePost_aside ss s

theorem settle_aside (s : State) : Aside s s.settle := ⟨rfl, rfl, rfl⟩

/-! ### What an engine touches -/

/-- Station k's record is the only one touched, song control is handed end events at most, and no time passes. -/
structure Own (k : StationId) (s t : State) : Prop where
  others : OthersKept k s t
  song : t.song = { s.song with ends := t.song.ends }
  refTime : t.refTime = s.refTime

theorem Own.refl (k : StationId) (s : State) : Own k s s := ⟨fun _ _ => rfl, rfl, rfl⟩

theorem Own.trans {k : StationId} {s t u : State} (h : Own k s t) (g : Own k t u) : Own k s u :=
  ⟨fun j ne => (g.others j ne).trans (h.others j ne), by rw [g.song, h.song], g.refTime.trans h.refTime⟩

theorem Aside.own {s t : State} (h : Aside s t) (k : StationId) : Own k s t :=
  ⟨fun j _ => h.station j, by rw [h.song], h.refTime⟩

theorem mapStation_own (k : StationId) (f : Station → Station) (s : State) : Own k s (s.mapStation k f) :=
  ⟨fun _ ne => State.station_mapStation_ne s ne f, rfl, rfl⟩

theorem if_own {k : StationId} {c : Bool} {s t : State} (h : Own k s t) : Own k s (if c then t else s) := by
  split
  · exact h
  · exact .refl k s

theorem foldl_own {k : StationId} {α : Type} {f : State → α → State} (h : ∀ s a, Own k s (f s a)) (as : List α)
    (s : State) : Own k s (as.foldl f s) := by
  induction as generalizing s with
  | nil => exact .refl k s
  | cons a as ih => exact (h s a).trans (ih _)

theorem countUp_own (k : StationId) (c : CountKind) (n : Nat) (s : State) : Own k s (s.countUp k c n) := by
  unfold State.countUp
  split
  · exact mapStation_own k _ s
  · exact (mapStation_own k _ s).trans ((choices_aside _ _ _).own k)

theorem takePush_own (k : StationId) (point : PushPoint) (s : State) : Own k s (s.takePush k point).1 := by
  rw [takePush_state]
  exact mapStation_own k _ s

theorem testPush_own (k : StationId) (s : State) : Own k s (s.testPush k) := by
  unfold State.testPush
  exact if_own ((takePush_own k .quiet s).trans ((offerAll_aside _ _).own k))

theorem drain_own (k : StationId) (s : State) : Own k s (s.drain k) :=
  ((countUp_own k _ _ s).trans (countUp_own k _ _ _)).trans (mapStation_own k _ _)

theorem endTrigger_aside (k : StationId) (e : EndState) (s : State) : Aside s (s.endTrigger k e).1 := by
  unfold State.endTrigger
  split
  · exact raise_aside _ s
  · exact raise_aside _ s
  · exact .refl s

theorem enterEnd_own (k : StationId) (e : EndState) (s : State) : Own k s (s.enterEnd k e).1 := by
  refine Own.trans ?_ ((endTrigger_aside k e _).own k)
  refine Own.trans ?_ (takePush_own k _ _)
  refine Own.trans ?_ ((chooseIf_aside _ _).own k)
  exact (drain_own k s).trans (mapStation_own k _ _)

theorem endStation_own (k : StationId) (e : EndState) (s : State) : Own k s (s.endStation k e) := by
  refine (enterEnd_own k e s).trans (Own.trans ?_ ((offerNowOrLater_aside _ _).own k))
  exact ⟨fun _ _ => rfl, rfl, rfl⟩

theorem checkCleared_own (k : StationId) (s : State) : Own k s (s.checkCleared k) := if_own (endStation_own k .cleared s)

theorem applyGiven_own (k : StationId) (kind : ResultKind) (s : State) : Own k s (s.applyGiven k kind) := by
  unfold State.applyGiven
  simp only
  split
  · exact (mapStation_own k _ s).trans ((notify_aside _ _).own k)
  · exact mapStation_own k _ s

theorem giveResult_own (k : StationId) (g : Given) (update : Station → Station) (s : State) :
    Own k s (s.giveResult k g update) := by
  unfold State.giveResult
  refine if_own ?_
  have given := ((mapStation_own k update s).trans (countUp_own k g.count g.countBy _)).trans (applyGiven_own k g.kind _)
  have offered := fun rs =>
    (given.trans ((raise_aside (.result k g.kind g.lanes) _).own k)).trans ((offerStreams_aside rs _).own k)
  simp only
  split
  · exact (offered _).trans (endStation_own k .failed _)
  · exact (offered _).trans (checkCleared_own k _)

theorem giveHoldOk_own (k : StationId) (seq : Nat) (s : State) : Own k s (s.giveHoldOk k seq) := by
  unfold State.giveHoldOk
  split
  · exact giveResult_own k _ _ s
  · exact .refl k s

theorem giveHoldLost_own (k : StationId) (seq : Nat) (s : State) : Own k s (s.giveHoldLost k seq) := by
  unfold State.giveHoldLost
  split
  · exact giveResult_own k _ _ s
  · exact .refl k s

theorem okIfTailReached_own (k : StationId) (seq : Nat) (s : State) : Own k s (s.okIfTailReached k seq) :=
  if_own (giveHoldOk_own k seq s)

theorem reachDeadline_own (k : StationId) (item : HoldItem) (frame : Int) (s : State) :
    Own k s (s.reachDeadline k item frame) := by
  unfold State.reachDeadline
  split
  · exact mapStation_own k _ s
  · exact giveHoldLost_own k _ s

theorem holdEvent_own (k : StationId) (l : LaneId) (s : State) : Own k s (s.holdEvent k l) := by
  unfold State.holdEvent
  refine if_own ?_
  split
  · exact .refl k s
  · split
    · exact okIfTailReached_own k _ s
    · split
      · exact giveHoldOk_own k _ s
      · split
        · exact reachDeadline_own k _ _ s
        · exact .refl k s
    · exact .refl k s

theorem resumeHolds_own (k : StationId) (s : State) : Own k s (s.resumeHolds k) :=
  (mapStation_own k _ s).trans (foldl_own (fun s (h : HoldItem) => okIfTailReached_own k h.seq s) _ _)

theorem missGroup_own (k : StationId) (members : List Entry) (first : Entry) (s : State) :
    Own k s (s.missGroup k members first) :=
  (giveResult_own k _ _ s).trans (foldl_own (fun s (e : Entry) => if_own (giveHoldLost_own k e.seq s)) _ _)

theorem examineItem_own (left : Bool) (k : StationId) (seq : Nat) (s : State) :
    Own k s (s.examineItem left k seq) := by
  unfold State.examineItem
  refine if_own ?_
  split
  · exact mapStation_own k _ s
  · simp only
    generalize (if left = true then (0 : LaneSet) else _) = waits
    split
    · exact mapStation_own k _ s
    · split
      · exact mapStation_own k _ s
      · exact (mapStation_own k _ s).trans (missGroup_own k _ _ _)

theorem closeSteps_own (k : StationId) (e : Entry) (s : State) : Own k s (s.closeSteps k e) := by
  unfold State.closeSteps
  simp only
  split
  · exact .refl k s
  · split
    · exact mapStation_own k _ s
    · exact missGroup_own k _ _ s

theorem openEvent_own (k : StationId) (e : Entry) (s : State) : Own k s (s.openEvent k e) := by
  unfold State.openEvent
  split
  · split
    · exact mapStation_own k _ s
    · refine if_own ?_
      unfold State.openMine
      split
      · exact giveResult_own k _ _ s
      · exact mapStation_own k _ s
  · exact .refl k s

theorem takeMarker_own (k : StationId) (e : Entry) (s : State) : Own k s (s.takeMarker k e) := by
  unfold State.takeMarker
  split
  · refine Own.trans ?_ (checkCleared_own k _)
    refine (mapStation_own k (Station.without [e.seq]) s).trans ?_
    split
    · exact (raiseNow_aside _ _).own k
    · exact .refl k _
  · exact (mapStation_own k _ s).trans (checkCleared_own k _)
  · exact .refl k s
  · exact .refl k s
  · exact .refl k s

theorem markerEvent_own (k : StationId) (e : Entry) (s : State) : Own k s (s.markerEvent k e) := by
  unfold State.markerEvent
  split
  · exact takeMarker_own k e s
  · exact .refl k s

theorem closeEvent_own (k : StationId) (e : Entry) (s : State) : Own k s (s.closeEvent k e) := by
  unfold State.closeEvent
  split
  · split
    · exact closeSteps_own k e s
    · split
      · exact ((mapStation_own k _ s).trans (countUp_own k _ _ _)).trans (checkCleared_own k _)
      · exact .refl k s
  · exact .refl k s

theorem forEntries_own (k : StationId) {f : Entry → State → State} (h : ∀ e s, Own k s (f e s)) (s : State) :
    Own k s (s.forEntries k f) :=
  foldl_own (fun s seq => by
    refine if_own ?_
    split
    · exact h _ s
    · exact .refl k s) _ _

theorem openPhase_own (k : StationId) (s : State) : Own k s (s.openPhase k) := forEntries_own k (openEvent_own k) s

theorem markerPhase_own (k : StationId) (s : State) : Own k s (s.markerPhase k) := forEntries_own k (markerEvent_own k) s

theorem songTimeChange_own (k : StationId) (s : State) : Own k s (s.songTimeChange k) :=
  ((((openPhase_own k s).trans (markerPhase_own k _)).trans (forEntries_own k (closeEvent_own k) _)).trans
    (foldl_own (fun s l => holdEvent_own k l s) _ _)).trans (testPush_own k _)

theorem engineStart_own (k : StationId) (s : State) : Own k s (s.engineStart k) :=
  (mapStation_own k _ s).trans (songTimeChange_own k _)

theorem resume_own (k : StationId) (s : State) : Own k s (s.resume k) := by
  unfold State.resume
  refine if_own (Own.trans ?_ (testPush_own k _))
  refine Own.trans ?_ (if_own (resumeHolds_own k _))
  exact ((openPhase_own k s).trans (markerPhase_own k _)).trans
    (foldl_own (fun s seq => examineItem_own _ k seq s) _ _)

theorem evalStarvation_own (k : StationId) (s : State) : Own k s (s.evalStarvation k) :=
  (mapStation_own k _ s).trans ((offerAny_aside _ _).own k)

theorem clearAtStart_own (k : StationId) (s : State) : Own k s (s.clearAtStart k) :=
  (mapStation_own k _ s).trans (endStation_own k .cleared _)

end Sys2Proof.Machine
end

section
/-! SUPPORT. What the hand-offs of a moment leave of the clock and the scanner; the edge counted in RUNNING. -/

namespace Sys2Proof.Machine

/-! ### What hand-offs do to the scanner, and what they leave -/

/-- R27, R32: what a hand-off does to the scanner. -/
def HandOff.onScanner : HandOff → Scanner → Scanner
  | .scannerPulse m, sc => sc.takePulse m
  | .abandon k, sc => sc.mapGroup k fun g => { g with job := none }
  | _, sc => sc

/-- Whether a hand-off goes to the scanner. -/
def HandOff.toScanner : HandOff → Bool
  | .scannerPulse _ | .abandon _ => true
  | _ => false

/-- What hand-offs, one after another, do to the scanner. -/
def scannerAfter (hs : List HandOff) (sc : Scanner) : Scanner := hs.foldl (fun sc h => h.onScanner sc) sc

/-- The shared tables, the queue of commands, reference time and the song clock stand; the scanner is changed by f. -/
structure Framed (f : Scanner → Scanner) (s t : State) : Prop where
  shared : SharedKept s t
  refTime : t.refTime = s.refTime
  clock : t.clock = s.clock
  scanner : t.scanner = f s.scanner

theorem Framed.trans {f g : Scanner → Scanner} {s t u : State} (h : Framed f s t) (k : Framed g t u) :
    Framed (fun sc => g (f sc)) s u := by
  obtain ⟨⟨w, c, l, p⟩, time, clock, scanner⟩ := h
  obtain ⟨⟨w', c', l', p'⟩, time', clock', scanner'⟩ := k
  exact ⟨⟨w'.trans w, c'.trans c, l'.trans l, p'.trans p⟩, time'.trans time, clock'.trans clock, by rw [scanner', scanner]⟩

/-- Inner moves leave the scanner too. -/
theorem InnerMoves.framed {s t : State} (h : InnerMoves s t) : Framed id s t := by
  obtain ⟨pending, time, clock, scanner, windows, scoring, ladder⟩ := h.frame
  exact ⟨⟨windows, scoring, ladder, pending⟩, time, clock, scanner⟩

theorem Framed.then_inner {f : Scanner → Scanner} {s t u : State} (h : Framed f s t) (m : InnerMoves t u) : Framed f s u :=
  h.trans m.framed

theorem Framed.after_inner {f : Scanner → Scanner} {s t u : State} (m : InnerMoves s t) (h : Framed f t u) : Framed f s u :=
  m.framed.trans h

/-- An update of the scanner. -/
theorem mapScanner_framed (f : Scanner → Scanner) (s : State) : Framed f s (s.mapScanner f) :=
  ⟨⟨rfl, rfl, rfl, rfl⟩, rfl, rfl, rfl⟩

/-- A station without a calibration job has none to lose. -/
theorem mapGroup_idle {sc : Scanner} {k : StationId} (idle : (sc.groups[k]).job = none) :
    (sc.mapGroup k fun g => { g with job := none }) = sc := by
  have same : ({ sc.groups[k] with job := none } : PanelGroup) = sc.groups[k] := by rw [← idle]
  rw [Scanner.mapGroup, same]
  simp

theorem abandonNow_idle {s : State} {k : StationId} (idle : (s.scanner.groups[k]).job = none) : s.abandonNow k = s := by
  simp only [State.abandonNow, State.abandonCalibration, idle, List.foldl_nil]

/-- R32: a running job is abandoned, with a cancelled CALIBRATED. -/
theorem abandonNow_running {s : State} {k : StationId} (running : (s.scanner.groups[k]).job ≠ none) :
    s.abandonNow k =
      (s.mapScanner fun sc => sc.mapGroup k fun g => { g with job := none }).offer
        (s.noticeOf (.calibrated k 0 true s.now)) := by
  obtain ⟨job, found⟩ := Option.ne_none_iff_exists'.mp running
  simp only [State.abandonNow, State.abandonCalibration, found, List.foldl_cons, List.foldl_nil]

theorem takeHandOff_framed (h : HandOff) (s : State) : Framed h.onScanner s (s.takeHandOff h) := by
  cases h with
  | scannerPulse m => exact mapScanner_framed _ s
  | abandon k =>
    by_cases idle : (s.scanner.groups[k]).job = none
    · refine ⟨⟨?_, ?_, ?_, ?_⟩, ?_, ?_, ?_⟩ <;>
        simp only [State.takeHandOff, abandonNow_idle idle, HandOff.onScanner, mapGroup_idle idle]
    · rw [State.takeHandOff, abandonNow_running idle]
      exact (mapScanner_framed _ s).then_inner (offer_moves _ _)
  | engine k => exact (takeHandOff_inner (h := .engine k) trivial s).framed
  | enter k => exact (takeHandOff_inner (h := .enter k) trivial s).framed
  | resume k => exact (takeHandOff_inner (h := .resume k) trivial s).framed
  | starve k => exact (takeHandOff_inner (h := .starve k) trivial s).framed
  | startClear k => exact (takeHandOff_inner (h := .startClear k) trivial s).framed
  | songStart => exact (takeHandOff_inner (h := .songStart) trivial s).framed
  | songPulse m => exact (takeHandOff_inner (h := .songPulse m) trivial s).framed
  | cuePulse => exact (takeHandOff_inner (h := .cuePulse) trivial s).framed
  | linkPulse m => exact (takeHandOff_inner (h := .linkPulse m) trivial s).framed
  | ended k e => exact (takeHandOff_inner (h := .ended k e) trivial s).framed
  | report r => exact (takeHandOff_inner (h := .report r) trivial s).framed

theorem collectAll_framed (hs : List HandOff) (s : State) :
    Framed (scannerAfter hs) s (s.collectAll State.takeHandOff hs).2 := by
  induction hs generalizing s with
  | nil => exact ⟨⟨rfl, rfl, rfl, rfl⟩, rfl, rfl, rfl⟩
  | cons h hs ih =>
    have taken : Framed h.onScanner s (s.collect (State.takeHandOff h)).2 := by
      obtain ⟨shared, time, clock, scanner⟩ := takeHandOff_framed h (s.withOutbox (some []))
      exact ⟨shared, time, clock, scanner⟩
    exact taken.trans (ih _)

/-- What hand-offs taken in some order leave, and what they do to the scanner. -/
theorem takeHandOffs_framed (hs : List HandOff) (s : State) :
    ∃ order : List HandOff, order.Perm hs ∧ Framed (scannerAfter order) s (s.takeHandOffs hs) := by
  obtain ⟨order, cs, count, perm, e⟩ := takeHandOffs_spec hs s
  refine ⟨order, perm, ?_⟩
  rw [e]
  exact .after_inner (InnerMove.choices s cs count).moves ((collectAll_framed order _).then_inner (postsDeliver_moves _ _))

/-- The end events and the reports on their way, as hand-offs. -/
def State.due (s : State) : List HandOff := (s.song.ends.map fun x => .ended x.1 x.2) ++ s.link.held.map .report

theorem flushWith_framed (more : List HandOff) (s : State) :
    ∃ order : List HandOff, order.Perm (more ++ s.due) ∧ Framed (scannerAfter order) s (s.flushWith more) := by
  obtain ⟨order, perm, framed⟩ := takeHandOffs_framed
    (more ++ (s.song.ends.map fun x => .ended x.1 x.2) ++ s.link.held.map .report)
    ((s.mapSong fun g => { g with ends := [] }).mapLink fun l => { l with held := [] })
  exact ⟨order, by rwa [List.append_assoc] at perm, .after_inner (clearDue_moves s) framed⟩

/-- Only the hand-offs that go to the scanner change it. -/
theorem scannerAfter_filter (hs : List HandOff) (sc : Scanner) :
    scannerAfter hs sc = scannerAfter (hs.filter HandOff.toScanner) sc := by
  induction hs generalizing sc with
  | nil => rfl
  | cons h hs ih =>
    by_cases goes : h.toScanner = true
    · rw [List.filter_cons_of_pos goes]
      exact ih _
    · rw [List.filter_cons_of_neg goes]
      have keeps : h.onScanner sc = sc := by
        cases h with
        | scannerPulse m => exact absurd rfl goes
        | abandon k => exact absurd rfl goes
        | _ => rfl
      show scannerAfter hs (h.onScanner sc) = _
      rw [keeps]
      exact ih sc

/-- Where at most one of some hand-offs goes to the scanner, their order does not matter to it. -/
theorem scannerAfter_perm {order hs : List HandOff} (perm : order.Perm hs) {one : List HandOff}
    (only : (hs.filter HandOff.toScanner).Perm one) (single : one.length ≤ 1) (sc : Scanner) :
    scannerAfter order sc = scannerAfter one sc := by
  have filtered := (perm.filter HandOff.toScanner).trans only
  rw [scannerAfter_filter]
  match one, single with
  | [], _ => rw [List.perm_nil.mp filtered]
  | [h], _ => rw [List.perm_singleton.mp filtered]

/-- No end event and no report on its way goes to the scanner. -/
theorem due_filter (s : State) : s.due.filter HandOff.toScanner = [] := by
  simp [State.due, List.filter_append, List.filter_map, Function.comp_def, HandOff.toScanner]

/-! ### The counted edge (R1, R14, R15) -/

/-- R1, R3: the clock at an edge that is counted, before a pulse of it fires. -/
def State.counted (s : State) : State :=
  s.mapClock fun c => { c with songTime := c.songTime + 1, watch := .present, watchTimer := some s.refTime }

/-- R55, R106: what a change of song time hands to the PLAYING stations. -/
def State.changeHands (s : State) : List HandOff := (allStations.filter s.playing).flatMap s.stationHandOffs

/-- R14: when a pulse is due. -/
theorem pulseDue_iff (s : State) : s.pulseDue = true ↔ ∃ p, s.clock.nextPulse = some p ∧ p.frame = s.now := by
  unfold State.pulseDue
  split <;> simp_all

theorem not_pulseDue_iff (s : State) : s.pulseDue = false ↔ ∀ p, s.clock.nextPulse = some p → p.frame ≠ s.now := by
  rw [← Bool.not_eq_true, pulseDue_iff]
  push Not
  rfl

/-- R1: an edge in RUNNING with no pulse due. -/
theorem wclkEdge_counted {s : State} (running : s.song.state = .running) (none : s.counted.pulseDue = false) :
    exec .wclkEdge s = .next (s.counted.takeHandOffs s.counted.changeHands).flush.settle := by
  have counts : s.watchEdge.edgeBySong (decide (s.clock.watch = .absent)) = s.watchEdge.countedEdge := by
    simp only [State.edgeBySong, show s.watchEdge.song.state = .running from running]
  have edge : s.watchEdge.countFrame = s.counted := rfl
  simp only [exec, execWclkEdge, counts, State.countedEdge, edge, none, Bool.false_eq_true, if_false]
  rfl

/-- R1, R14, R15: an edge in RUNNING with a pulse due, whose deliveries fall early or late by choice. -/
theorem wclkEdge_pulse {s : State} (running : s.song.state = .running) (due : s.counted.pulseDue = true) :
    ∃ (early late : List HandOff) (cs : List Nat) (count : Nat),
      (early ++ late).Perm (pulseDeliveries (s.clock.measure + 1)) ∧
      exec .wclkEdge s =
        .next ((State.takeHandOffs (s.counted.changeHands ++ early)
          { s.counted.firePulse with choices := cs, choiceCount := count }).flushWith
            (.songPulse (s.clock.measure + 1) :: late)).settle := by
  obtain ⟨perm, cs, count, drawn⟩ := pickSome_spec (pulseDeliveries (s.clock.measure + 1)) s.counted.firePulse
  refine ⟨_, _, cs, count, perm, ?_⟩
  have counts : s.watchEdge.edgeBySong (decide (s.clock.watch = .absent)) = s.watchEdge.countedEdge := by
    simp only [State.edgeBySong, show s.watchEdge.song.state = .running from running]
  have edge : s.watchEdge.countFrame = s.counted := rfl
  have number : s.counted.firePulse.clock.measure = s.clock.measure + 1 := rfl
  simp only [exec, execWclkEdge, counts, State.countedEdge, edge, due, if_true, number]
  rw [drawn]
  rfl

/-- What a change of song time hands to the stations does not go to the scanner. -/
theorem changeHands_filter (s : State) : s.changeHands.filter HandOff.toScanner = [] := by
  refine List.filter_eq_nil_iff.mpr fun h mem => ?_
  obtain ⟨k, _, mem⟩ := List.mem_flatMap.mp mem
  simp only [State.stationHandOffs, State.starveHandOffs, List.mem_append, List.mem_singleton] at mem
  rcases mem with mem | rfl
  · split at mem
    · rw [List.mem_singleton.mp mem]
      nofun
    · cases mem
  · nofun

/-- R3: an edge that touches the watch alone. -/
theorem wclkEdge_watch {s : State} (h : s.song.state = .stopped ∨ s.song.state = .finished ∨
      (s.song.state = .armed ∧ s.song.latch = false) ∨ (s.song.state = .halted ∧ s.clock.watch = .present)) :
    exec .wclkEdge s = .next s.watchEdge.settle := by
  have plain : s.watchEdge.edgeBySong (decide (s.clock.watch = .absent)) = s.watchEdge := by
    have song : s.watchEdge.song = s.song := rfl
    rcases h with stopped | finished | ⟨armed, latch⟩ | ⟨halted, present⟩
    · simp only [State.edgeBySong, song, stopped]
    · simp only [State.edgeBySong, song, finished]
    · simp only [State.edgeBySong, song, armed, latch, Bool.false_eq_true, if_false]
    · simp only [State.edgeBySong, song, halted, present, reduceCtorEq, decide_false, Bool.false_eq_true, if_false]
  simp only [exec, execWclkEdge, plain]

/-- R1, R27: what an edge counted in RUNNING leaves, with no pulse due. -/
theorem wclkEdge_counted_framed {s : State} (running : s.song.state = .running) (none : s.counted.pulseDue = false) :
    ∃ t, exec .wclkEdge s = .next t ∧ Framed id s.counted t := by
  refine ⟨_, wclkEdge_counted running none, ?_⟩
  obtain ⟨order, perm, framed⟩ := takeHandOffs_framed s.counted.changeHands s.counted
  have same : scannerAfter order = id :=
    funext (scannerAfter_perm perm (one := []) (by rw [changeHands_filter]) (Nat.zero_le _))
  rw [same] at framed
  exact (framed.then_inner (flush_moves _)).then_inner (settle_moves _)

/-- R1, R14, R15, R27: what an edge counted in RUNNING leaves, with a pulse due, which the scanner takes once. -/
theorem wclkEdge_pulse_framed {s : State} (running : s.song.state = .running) (due : s.counted.pulseDue = true) :
    ∃ t, exec .wclkEdge s = .next t ∧ Framed (Scanner.takePulse (s.clock.measure + 1)) s.counted.firePulse t := by
  obtain ⟨early, late, cs, count, parts, next⟩ := wclkEdge_pulse running due
  refine ⟨_, next, ?_⟩
  obtain ⟨first, permFirst, framedFirst⟩ := takeHandOffs_framed (s.counted.changeHands ++ early)
    { s.counted.firePulse with choices := cs, choiceCount := count }
  obtain ⟨second, permSecond, framedSecond⟩ := flushWith_framed (.songPulse (s.clock.measure + 1) :: late)
    (State.takeHandOffs (s.counted.changeHands ++ early)
      { s.counted.firePulse with choices := cs, choiceCount := count })
  have once : ((first ++ second).filter HandOff.toScanner).Perm [.scannerPulse (s.clock.measure + 1)] := by
    have all := ((permFirst.append permSecond).filter HandOff.toScanner)
    have delivered := parts.filter HandOff.toScanner
    simp only [List.filter_append, changeHands_filter, due_filter, List.append_nil, List.nil_append] at all delivered
    rw [List.filter_append]
    exact (all.trans (by simp [HandOff.toScanner])).trans delivered
  have both : (fun sc => scannerAfter second (scannerAfter first sc)) = Scanner.takePulse (s.clock.measure + 1) := by
    funext sc
    have := scannerAfter_perm (.refl (first ++ second)) once (Nat.le_refl _) sc
    simpa [scannerAfter, HandOff.onScanner] using this
  have framed := framedFirst.trans framedSecond
  rw [both] at framed
  exact .after_inner (InnerMove.choices _ cs count).moves (framed.then_inner (settle_moves _))

/-- Settles O18: `wclkEdge_watch`, and what a counted edge leaves without a pulse and with one. -/
theorem wclkEdgesOutsideTheStart : Obligations.WclkEdgesOutsideTheStart := by
  unfold Obligations.WclkEdgesOutsideTheStart
  refine ⟨fun s h => wclkEdge_watch h, fun s running => ?_⟩
  by_cases due : s.counted.pulseDue = true
  · obtain ⟨t, next, shared, time, clock, scanner⟩ := wclkEdge_pulse_framed running due
    refine ⟨t, next, shared, time, fun _ => ⟨clock, scanner⟩, fun none => ?_⟩
    obtain ⟨p, placed, here⟩ := (pulseDue_iff _).mp due
    exact absurd here (none p placed)
  · rw [Bool.not_eq_true] at due
    obtain ⟨t, next, shared, time, clock, scanner⟩ := wclkEdge_counted_framed running due
    refine ⟨t, next, shared, time, fun ⟨p, placed, here⟩ => ?_, fun _ => ⟨clock, scanner⟩⟩
    exact absurd here ((not_pulseDue_iff _).mp due p placed)

end Sys2Proof.Machine
end

section
/-! SUPPORT. Hand-offs and their posts in the statements' words, and the phases of an engine. -/

namespace Sys2Proof.Machine

/-! ### Hand-offs and posts (R83, R166, R180) -/

/-- R55, R106: what a change of song time hands to a station. -/
theorem stationHandOffs_eq (s : State) (k : StationId) :
    s.stationHandOffs k = (if s.starvingDue k = true ∨ s.starvedDue k = true then [.starve k] else []) ++ [.engine k] := by
  simp only [State.stationHandOffs, State.starveHandOffs, Bool.or_eq_true]

/-- R55, R106: what a change of song time hands on, by the stations that play before it. -/
theorem changeHands_eq (s : State) :
    s.counted.changeHands =
      (allStations.filter fun k => decide ((s.station k).state = .playing)).flatMap fun k =>
        (if s.counted.starvingDue k = true ∨ s.counted.starvedDue k = true then [.starve k] else []) ++ [.engine k] :=
  List.flatMap_congr fun k _ => stationHandOffs_eq s.counted k

/-- One hand-off more: the streams of its posts, and the state that it leaves. -/
def gather (acc : List (List Post) × State) (h : HandOff) : List (List Post) × State :=
  let x := acc.2.collect (State.takeHandOff h)
  (acc.1 ++ x.1.filter Post.isReport :: allCueChannels.map fun c => x.1.filter (Post.isFor c), x.2)

/-- Hand-offs are taken in some order, each whole, and their posts arrive in some interleaving. -/
theorem takeHandOffs_gathered (hs : List HandOff) (s : State) :
    ∃ (order : List HandOff) (posts : List Post) (cs cs' : List Nat) (count count' : Nat), order.Perm hs ∧
      (let taken := order.foldl gather ([], { s with choices := cs, choiceCount := count })
       posts.Perm taken.1.flatten ∧ (∀ l ∈ taken.1, l.Sublist posts) ∧
        s.takeHandOffs hs =
          posts.foldl (fun t p => t.takePost p) { taken.2 with choices := cs', choiceCount := count' }) := by
  obtain ⟨order, cs, count, perm, taken⟩ := takeHandOffs_spec hs s
  have fold : State.collectAll State.takeHandOff order { s with choices := cs, choiceCount := count } =
      order.foldl gather ([], { s with choices := cs, choiceCount := count }) := collectAll_eq_foldl _ _ _
  rw [fold] at taken
  obtain ⟨posts, cs', count', all, streams, delivered⟩ := deliver_spec
    (order.foldl gather ([], { s with choices := cs, choiceCount := count })).1
    (order.foldl gather ([], { s with choices := cs, choiceCount := count })).2
  exact ⟨order, posts, cs, cs', count, count', perm, all, streams, taken.trans delivered⟩

/-- A posted trigger reaches its channel, and what the channel raises is offered. -/
theorem takePost_trigger (g : Trigger) (c : ChannelId) (s : State) :
    s.takePost (.trigger g c) =
      (s.cue.takeTrigger s.refTime c g.record).2.foldl (fun t n => t.offer (.notice s.clock.songTime.toInt n))
        { s with cue := (s.cue.takeTrigger s.refTime c g.record).1 } :=
  notifyAll_eq (s.cue.takeTrigger s.refTime c g.record).2 { s with cue := (s.cue.takeTrigger s.refTime c g.record).1 }

/-! ### The phases of an engine (R69, R106) -/

/-- R106: the entries of a station taken one after another, each as it then stands in the queue of a PLAYING station. -/
theorem forEntries_eq {k : StationId} {s : State} {f : Entry → State → State} {take : Nat → State → State}
    (takes : ∀ n t e, (t.station k).state = .playing → (t.station k).entry? n = some e → take n t = f e t)
    (skips : ∀ n t, ((t.station k).state ≠ .playing ∨ (t.station k).entry? n = none) → take n t = t) :
    s.forEntries k f = ((s.station k).queue.map Entry.seq).foldl (fun t n => take n t) s := by
  unfold State.forEntries
  congr 1
  funext t n
  by_cases playing : (t.station k).state = .playing
  · simp only [State.playing, playing, decide_true, if_true]
    split
    · rename_i e found
      exact (takes n t e playing found).symm
    · rename_i none
      exact (skips n t (.inr none)).symm
  · simp only [State.playing, playing, decide_false, Bool.false_eq_true, if_false]
    exact (skips n t (.inl playing)).symm

/-- R69: the window of an entry that is not due stays as it is. -/
theorem openEvent_notDue {k : StationId} {e : Entry} {s : State}
    (h : e.state ≠ .queued ∨ s.clock.songTime.toInt < e.openFrame s.windows) : s.openEvent k e = s := by
  refine if_neg fun ⟨queued, due⟩ => ?_
  rcases h with other | before
  · exact other queued
  · exact absurd due (Int.not_le.mpr before)

/-- R64: the window of a TAP or a HOLD is w4 wide on each side. -/
theorem step_width {e : Entry} (step : e.isStep = true) (w : Windows) : e.width w = w.w4 := by
  unfold Entry.isStep at step
  unfold Entry.width
  split <;> simp_all

/-- R69: the window of a TAP or a HOLD that is due opens. -/
theorem openEvent_step {k : StationId} {e : Entry} {s : State} (queued : e.state = .queued) (step : e.isStep = true)
    (due : e.frame - Int.ofNat s.windows.w4 ≤ s.clock.songTime.toInt) :
    s.openEvent k e = s.mapStation k (Station.openSteps e) := by
  unfold State.openEvent
  rw [if_pos ⟨queued, by rw [Entry.openFrame, step_width step]; exact due⟩, if_pos step]

/-- R51: an entry of the queue is of the group of another where it is that one or a member of its chord. -/
theorem mem_group_iff {st : Station} {e x : Entry} (distinct : (st.queue.map Entry.seq).Nodup) (mem : x ∈ st.queue) :
    x.seq ∈ (st.group e).map Entry.seq ↔ x.seq = e.seq ∨ e.sameChord x = true := by
  simp only [Station.group, List.mem_map, List.mem_filter, Bool.or_eq_true, decide_eq_true_eq]
  constructor
  · rintro ⟨y, ⟨memY, inGroup⟩, same⟩
    rwa [List.inj_on_of_nodup_map distinct memY mem same] at inGroup
  · exact fun inGroup => ⟨x, ⟨mem, inGroup⟩, rfl⟩

/-- R51: when an entry is of another's chord. -/
theorem sameChord_iff (e x : Entry) : e.sameChord x = true ↔ e.chord ≠ none ∧ x.isStep = true ∧ x.tick = e.tick := by
  rw [Entry.sameChord, Bool.and_eq_true, Bool.and_eq_true, decide_eq_true_eq, Option.isSome_iff_ne_none, and_assoc,
    eq_comm (a := e.tick)]

/-- R69: an opening TAP or HOLD opens its chord and seals its tick. -/
theorem openSteps_eq {st : Station} {e : Entry} (distinct : (st.queue.map Entry.seq).Nodup) :
    st.openSteps e = { st with
      intake := { st.intake with sealedTick := some e.tick },
      queue := st.queue.map fun x =>
        if x.state = .queued ∧ (x.seq = e.seq ∨ (e.chord ≠ none ∧ x.isStep = true ∧ x.tick = e.tick)) then
          { x with state := .opened }
        else x } := by
  have queue : (st.openSteps e).queue = st.queue.map fun x =>
      if x.state = .queued ∧ (x.seq = e.seq ∨ (e.chord ≠ none ∧ x.isStep = true ∧ x.tick = e.tick)) then
        { x with state := .opened }
      else x := by
    refine List.map_congr_left fun x mem => ?_
    have inGroup := mem_group_iff (e := e) distinct mem
    rw [sameChord_iff, ← List.contains_iff_mem] at inGroup
    by_cases queued : x.state = .queued
    · simp only [inGroup, queued, if_true, true_and]
    · simp only [queued, if_false, ite_self, false_and]
  rw [← queue]
  rfl

/-- Settles O19: `wclkEdge_counted` and `wclkEdge_pulse` for the edge, `takeHandOffs_gathered` and `takePost_trigger` for
what is posted, and the phases of an engine. -/
theorem countedEdgeIsTakenInFourPhases : Obligations.CountedEdgeIsTakenInFourPhases := by
  unfold Obligations.CountedEdgeIsTakenInFourPhases
  refine ⟨fun s running => ⟨fun none => ?_, fun p placed here => ?_⟩, fun hs s => ?_, fun f r g c d s => ?_,
    fun k m s => ⟨rfl, rfl, rfl, rfl, rfl, rfl⟩, fun k s f take takes skips => ⟨forEntries_eq takes skips, rfl⟩,
    fun k e s st => ⟨openEvent_notDue, openEvent_step, fun _ => openSteps_eq⟩⟩
  · have edge := wclkEdge_counted running ((not_pulseDue_iff _).mpr none)
    rw [changeHands_eq] at edge
    exact edge
  · obtain ⟨early, late, cs, count, parts, edge⟩ := wclkEdge_pulse running ((pulseDue_iff _).mpr ⟨p, placed, here⟩)
    rw [changeHands_eq] at edge
    exact ⟨early, late, _, parts, rfl, edge⟩
  · obtain ⟨order, posts, cs, cs', count, count', perm, all, streams, taken⟩ := takeHandOffs_gathered hs s
    exact ⟨order, posts, _, _, perm, rfl, ⟨all, streams, rfl⟩, taken⟩
  · exact ⟨rfl, rfl, takePost_trigger g c s, rfl, rfl, rfl, decide_eq_true_iff.trans eq_comm⟩

end Sys2Proof.Machine
end

section
/-! SUPPORT. What the hand-offs of a song leave of song control's record and of the stations: `SongGoesOn`. The halt and
the resume. -/

namespace Sys2Proof.Machine

/-! ### What a song's hand-offs leave of song control and the stations -/

/-- Song control's record and the stations behind a song's hand-offs: the song stands as it is, or it was under way and has
finished; a station outside the armed set is not touched. -/
structure SongGoesOn (s t : State) : Prop where
  refTime : t.refTime = s.refTime
  armed : t.song.armed = s.song.armed
  startFrame : t.song.startFrame = s.song.startFrame
  latch : t.song.latch = s.song.latch
  course : (t.song.state = s.song.state ∧ t.song.halt = s.song.halt) ∨
    (s.song.state.underWay = true ∧ t.song.state = .finished ∧ t.song.halt = .stopped (s.song.halt.ms s.refTime))
  unarmed : ∀ k, StationSet.has s.song.armed k = false → t.station k = s.station k

theorem SongGoesOn.refl (s : State) : SongGoesOn s s := ⟨rfl, rfl, rfl, rfl, .inl ⟨rfl, rfl⟩, fun _ _ => rfl⟩

theorem SongGoesOn.trans {s t u : State} (h : SongGoesOn s t) (g : SongGoesOn t u) : SongGoesOn s u := by
  refine ⟨g.refTime.trans h.refTime, g.armed.trans h.armed, g.startFrame.trans h.startFrame, g.latch.trans h.latch, ?_,
    fun k out => (g.unarmed k (by rw [h.armed]; exact out)).trans (h.unarmed k out)⟩
  rcases h.course with ⟨state, halt⟩ | ⟨underWay, finished, halt⟩
  · have course := g.course
    rwa [state, halt, h.refTime] at course
  · rcases g.course with ⟨state', halt'⟩ | ⟨underWay', _⟩
    · exact .inr ⟨underWay, state'.trans finished, halt'.trans halt⟩
    · rw [finished] at underWay'
      cases underWay'

/-- What an engine does on a station of the armed set. -/
theorem Own.goesOn {k : StationId} {s t : State} (h : Own k s t) (armed : StationSet.has s.song.armed k = true) :
    SongGoesOn s t := by
  refine ⟨h.refTime, by rw [h.song], by rw [h.song], by rw [h.song], .inl ⟨by rw [h.song], by rw [h.song]⟩,
    fun j out => h.others j fun same => ?_⟩
  rw [same, armed] at out
  cases out

theorem Aside.goesOn {s t : State} (h : Aside s t) : SongGoesOn s t :=
  ⟨h.refTime, by rw [h.song], by rw [h.song], by rw [h.song], .inl ⟨by rw [h.song], by rw [h.song]⟩,
    fun k _ => h.station k⟩

/-- The end events on their way are no part of a song's course. -/
theorem ends_goesOn (ends : List (StationId × EndState)) (s : State) :
    SongGoesOn s (s.mapSong fun g => { g with ends := ends }) :=
  ⟨rfl, rfl, rfl, rfl, .inl ⟨rfl, rfl⟩, fun _ _ => rfl⟩

/-- R145, R146: a song under way enters FINISHED. -/
theorem finish_goesOn (cause : FinishCause) {s : State} (underWay : s.song.state.underWay = true) :
    SongGoesOn s (s.mapSong (Song.finish cause (s.song.halt.ms s.refTime))) :=
  ⟨rfl, rfl, rfl, rfl, .inr ⟨underWay, rfl, rfl⟩, fun _ _ => rfl⟩

/-- Where posts are gathered is beside stations and song control. -/
theorem outbox_aside (o : Option (List Post)) (s : State) : Aside s (s.withOutbox o) := ⟨rfl, rfl, rfl⟩

/-- A property that nothing beside stations and song control changes, and that each of some hand-offs keeps, is kept as they
are taken one after another. -/
theorem collectAll_keep {P : State → Prop} (aside : ∀ {t u : State}, Aside t u → P t → P u) {hs : List HandOff}
    (each : ∀ h ∈ hs, ∀ t : State, P t → P (t.takeHandOff h)) {s : State} (start : P s) :
    P (s.collectAll State.takeHandOff hs).2 := by
  induction hs generalizing s with
  | nil => exact start
  | cons h rest ih =>
    have taking : P (s.withOutbox (some [])) := aside (outbox_aside _ s) start
    have taken : P (s.collect (State.takeHandOff h)).2 := aside (outbox_aside s.outbox _) (each h (.head _) _ taking)
    exact ih (fun g mem => each g (.tail _ mem)) taken

/-- Such a property is kept by hand-offs taken in any order, with the posts that they give. -/
theorem takeHandOffs_keep {P : State → Prop} (aside : ∀ {t u : State}, Aside t u → P t → P u) {hs : List HandOff}
    (each : ∀ h ∈ hs, ∀ t : State, P t → P (t.takeHandOff h)) {s : State} (start : P s) : P (s.takeHandOffs hs) := by
  obtain ⟨order, cs, count, perm, e⟩ := takeHandOffs_spec hs s
  rw [e]
  exact aside (postsDeliver_aside _ _) (collectAll_keep aside (fun h mem => each h (perm.mem_iff.mp mem))
    (aside (choices_aside s cs count) start))

/-! ### Abort and finish (R145, R146) -/

/-- R57, R129: the record of a station as it enters an end state, but for a push that is pending. -/
theorem enterEnd_station (k : StationId) (e : EndState) (s : State) :
    ∃ st : Station, ((s.enterEnd k e).1).station k = (if st.pushPending then st.push else st) ∧ st.queue = [] ∧
      st.state = e.station := by
  let ended := (s.drain k).mapStation k fun st => { st with state := e.station }
  have drawn := ((chooseIf_aside (decide (e = .cleared) && (ended.station k).pushPending && ended.quiet k) ended).station k)
  refine ⟨ended.station k, ?_, ?_, ?_⟩
  · simp only [State.enterEnd]
    rw [(endTrigger_aside k e _).station k, takePush_state, State.station_mapStation_same]
    exact congrArg (fun st : Station => if st.pushPending then st.push else st) drawn
  · simp only [ended, State.station_mapStation_same]
    exact congrArg Station.queue (State.station_mapStation_same _ k Station.emptied)
  · simp only [ended, State.station_mapStation_same]

/-- R145: the record of a station in ABORTED: no entry and no pending push. -/
def Station.IsAborted (st : Station) : Prop := st.state = .aborted ∧ st.queue = [] ∧ st.pushPending = false

theorem enterEnd_aborted (k : StationId) (s : State) : (((s.enterEnd k .aborted).1).station k).IsAborted := by
  obtain ⟨st, record, queue, state⟩ := enterEnd_station k .aborted s
  rw [record]
  split
  · exact ⟨state, queue, rfl⟩
  · exact ⟨state, queue, eq_false_of_ne_true ‹_›⟩

/-- R145: some stations have entered ABORTED; the others, and song control but for its end events, stand as they were. -/
structure StationsAborted (ks : List StationId) (s t : State) : Prop where
  refTime : t.refTime = s.refTime
  song : t.song = { s.song with ends := t.song.ends }
  aborted : ∀ k ∈ ks, (t.station k).IsAborted
  others : ∀ k, k ∉ ks → t.station k = s.station k

theorem abortStations_cons (k : StationId) (rest : List StationId) (s : State) :
    (abortStations (k :: rest) s).1 = (abortStations rest (s.enterEnd k .aborted).1).1 := by
  rw [abortStations]

theorem abortStations_spec (ks : List StationId) (s : State) : StationsAborted ks s (abortStations ks s).1 := by
  induction ks generalizing s with
  | nil => exact ⟨rfl, rfl, nofun, fun _ _ => rfl⟩
  | cons k rest ih =>
    have first := enterEnd_own k .aborted s
    obtain ⟨time, song, aborted, others⟩ := ih (s.enterEnd k .aborted).1
    rw [abortStations_cons]
    refine ⟨time.trans first.refTime, by rw [song, first.song], fun j mem => ?_, fun j out => ?_⟩
    · by_cases later : j ∈ rest
      · exact aborted j later
      · obtain rfl : j = k := (List.mem_cons.mp mem).resolve_right later
        rw [others j later]
        exact enterEnd_aborted j s
    · rw [List.mem_cons, not_or] at out
      exact (others j out.2).trans (first.others j out.1)

/-- The stations of the armed set that are PLAYING. -/
theorem mem_armedPlaying {s : State} {k : StationId} :
    k ∈ s.armedPlaying ↔ StationSet.has s.song.armed k = true ∧ (s.station k).state = .playing := by
  have all : k ∈ allStations := by revert k; decide
  simp [State.armedPlaying, all, State.playing]

/-- R145: a song has been aborted with a cause. -/
structure SongAborted (cause : FinishCause) (s t : State) : Prop where
  refTime : t.refTime = s.refTime
  song : t.song = Song.finish cause (s.song.halt.ms s.refTime) { s.song with ends := t.song.ends }
  aborted : ∀ k, StationSet.has s.song.armed k = true → (s.station k).state = .playing → (t.station k).IsAborted
  others : ∀ k, StationSet.has s.song.armed k = false ∨ (s.station k).state ≠ .playing → t.station k = s.station k

theorem abortSong_spec (cause : FinishCause) (s : State) : SongAborted cause s (s.abortSong cause) := by
  obtain ⟨time, song, aborted, others⟩ := abortStations_spec s.armedPlaying s
  have offered : Aside ((abortStations s.armedPlaying s).1.mapSong
      (Song.finish cause ((abortStations s.armedPlaying s).1.song.halt.ms (abortStations s.armedPlaying s).1.refTime)))
      (s.abortSong cause) := offerAny_aside _ _
  refine ⟨offered.refTime.trans time, ?_, fun k armed playing => ?_, fun k out => ?_⟩
  · rw [offered.song, State.mapSong_song, song, time]
    rfl
  · rw [offered.station k]
    exact aborted k (mem_armedPlaying.mpr ⟨armed, playing⟩)
  · rw [offered.station k]
    refine others k fun mem => ?_
    obtain ⟨armed, playing⟩ := mem_armedPlaying.mp mem
    rcases out with out | out
    · rw [armed] at out
      cases out
    · exact out playing

/-- R145: the abort of a song under way. -/
theorem abortSong_goesOn (cause : FinishCause) {s : State} (underWay : s.song.state.underWay = true) :
    SongGoesOn s (s.abortSong cause) := by
  obtain ⟨time, song, _, others⟩ := abortSong_spec cause s
  exact ⟨time, by rw [song]; rfl, by rw [song]; rfl, by rw [song]; rfl, .inr ⟨underWay, by rw [song]; rfl, by rw [song]; rfl⟩,
    fun k out => others k (.inl out)⟩

/-- R146: the natural finish of a song under way. -/
theorem finishSong_goesOn {s : State} (underWay : s.song.state.underWay = true) : SongGoesOn s s.finishSong :=
  (finish_goesOn .complete underWay).trans (offer_aside _ _).goesOn

theorem finishIfNone_goesOn (s : State) : SongGoesOn s s.finishIfNone := by
  unfold State.finishIfNone
  split
  · rename_i h
    rw [Bool.and_eq_true, decide_eq_true_eq] at h
    exact finishSong_goesOn (by rw [h.1]; rfl)
  · exact .refl s

/-! ### The hand-offs of a song -/

/-- A hand-off to a station goes to one of a set. -/
def HandOff.Within (set : StationSet) : HandOff → Prop
  | .engine k | .enter k | .resume k | .starve k | .startClear k => StationSet.has set k = true
  | .abandon _ | .songStart | .scannerPulse _ | .songPulse _ | .cuePulse | .linkPulse _ | .ended _ _ | .report _ => True

theorem takePulse_goesOn (m : Half) (s : State) : SongGoesOn s (s.takePulse m) := by
  unfold State.takePulse
  split
  · rename_i h
    exact abortSong_goesOn .aborted (Bool.and_eq_true_iff.mp h).1
  · exact .refl s

theorem takeEnd_goesOn (e : EndState) (s : State) : SongGoesOn s (s.takeEnd e) := by
  unfold State.takeEnd
  split
  · rename_i underWay
    split
    · exact abortSong_goesOn .aborted underWay
    · split
      · exact finishSong_goesOn underWay
      · exact .refl s
  · exact .refl s

theorem abandonNow_aside (k : StationId) (s : State) : Aside s (s.abandonNow k) := by
  by_cases idle : (s.scanner.groups[k]).job = none
  · rw [abandonNow_idle idle]
    exact .refl s
  · rw [abandonNow_running idle]
    exact Aside.trans (t := s.mapScanner _) ⟨rfl, rfl, rfl⟩ (offer_aside _ _)

theorem takeHandOff_goesOn {h : HandOff} {s : State} (within : h.Within s.song.armed) :
    SongGoesOn s (s.takeHandOff h) := by
  cases h with
  | engine k => exact (songTimeChange_own k s).goesOn within
  | enter k => exact (engineStart_own k s).goesOn within
  | resume k => exact (resume_own k s).goesOn within
  | starve k => exact (evalStarvation_own k s).goesOn within
  | startClear k => exact (clearAtStart_own k s).goesOn within
  | abandon k => exact (abandonNow_aside k s).goesOn
  | songStart => exact (raiseNow_aside _ s).goesOn
  | scannerPulse m => exact Aside.goesOn (t := s.mapScanner _) ⟨rfl, rfl, rfl⟩
  | songPulse m => exact takePulse_goesOn m s
  | cuePulse => exact (raiseNow_aside _ s).goesOn
  | linkPulse m => exact (notify_aside _ s).goesOn
  | ended k e => exact takeEnd_goesOn e s
  | report r => exact (offer_aside r s).goesOn

theorem takeHandOffs_goesOn {hs : List HandOff} {s : State} (within : ∀ h ∈ hs, h.Within s.song.armed) :
    SongGoesOn s (s.takeHandOffs hs) :=
  takeHandOffs_keep (P := SongGoesOn s) (fun aside goes => goes.trans aside.goesOn)
    (fun h mem t goes => goes.trans (takeHandOff_goesOn (by rw [goes.armed]; exact within h mem))) (.refl s)

/-- The end events and the reports on their way are hand-offs to no station. -/
theorem due_within (s : State) (set : StationSet) : ∀ h ∈ s.due, h.Within set := by
  intro h mem
  simp only [State.due, List.mem_append, List.mem_map] at mem
  rcases mem with ⟨x, _, rfl⟩ | ⟨r, _, rfl⟩ <;> trivial

/-- What is on its way leaves the lists that hold it, and is taken. -/
theorem flush_eq (s : State) :
    s.flush = ((s.mapSong fun g => { g with ends := [] }).mapLink fun l => { l with held := [] }).takeHandOffs s.due :=
  rfl

theorem flush_goesOn (s : State) : SongGoesOn s s.flush := by
  have cleared : SongGoesOn s ((s.mapSong fun g => { g with ends := [] }).mapLink fun l => { l with held := [] }) :=
    (ends_goesOn [] s).trans (Aside.goesOn ⟨rfl, rfl, rfl⟩)
  exact cleared.trans (takeHandOffs_goesOn (due_within s _))

/-! ### The watch timer, the halt and the resume (R3, R4, R141 to R143) -/

theorem watchInterval_eq : watchInterval = 32000 := rfl

theorem haltLimit_eq : haltLimit = 8000000 := rfl

/-- R3, R141: what the watch timer's expiry does, at the later of now and its moment (log 3). -/
theorem watchTimerExpiry_timed {s : State} {since : Nat} (timed : s.clock.watchTimer = some since) :
    exec .watchTimerExpiry s = .next (s.advanceTo (since + 32000)).watchExpire.clockLost.settle := by
  simp only [exec, execWatchTimerExpiry, timed, watchInterval_eq]

/-- R141: a watch event to ABSENT halts a RUNNING song. -/
theorem clockLost_running {s : State} (running : s.song.state = .running) :
    s.clockLost = (s.mapSong fun g => { g with state := .halted, halt := .running s.refTime }).notify .clockLost :=
  if_pos running

/-- R141: in every other song state it hands song control nothing to do. -/
theorem clockLost_other {s : State} (other : s.song.state ≠ .running) : s.clockLost = s := if_neg other

/-- R142: the edge that ends an absence in HALTED resumes the song. -/
theorem wclkEdge_resume {s : State} (halted : s.song.state = .halted) (absent : s.clock.watch = .absent) :
    exec .wclkEdge s = .next s.watchEdge.clockBack.settle := by
  have song : s.watchEdge.song = s.song := rfl
  simp only [exec, execWclkEdge, State.edgeBySong, song, halted, absent, decide_true, if_true]

/-- R142: what the resume leaves of song control: the song is RUNNING, or its stations' ends have finished it, and the halt
timer has stopped below 500 ms. -/
theorem clockBack_song (s : State) :
    (s.clockBack.settle.song.state = .running ∨ s.clockBack.settle.song.state = .finished) ∧
      s.clockBack.settle.song.halt = .stopped s.haltMsAtResume := by
  let back := s.mapSong fun g => { g with state := .running, halt := .stopped s.haltMsAtResume }
  have announced : Aside back (back.notify (.clockBack s.haltMsAtResume)) := notify_aside _ _
  have resumed : SongGoesOn back s.clockBack.settle := by
    refine SongGoesOn.trans ?_ (settle_aside _).goesOn
    refine announced.goesOn.trans (SongGoesOn.trans (takeHandOffs_goesOn fun h mem => ?_) (flush_goesOn _))
    obtain ⟨k, playing, rfl⟩ := List.mem_map.mp mem
    exact (mem_armedPlaying.mp playing).1
  rcases resumed.course with ⟨state, halt⟩ | ⟨_, state, halt⟩
  · exact ⟨.inl state, halt⟩
  · exact ⟨.inr state, halt⟩

/-- R146: what is on its way when no song is under way changes no station and not song control, but for its end events. -/
theorem flush_over {s : State} (ended : s.song.state.underWay = false) :
    Aside (s.mapSong fun g => { g with ends := [] }) s.flush := by
  refine takeHandOffs_keep (P := Aside (s.mapSong fun g => { g with ends := [] })) (fun aside kept => kept.trans aside)
    (fun h mem t kept => ?_) ⟨rfl, rfl, rfl⟩
  have ended' : t.song.state.underWay = false := by rw [kept.song]; exact ended
  simp only [List.nil_append, List.mem_append, List.mem_map] at mem
  rcases mem with ⟨x, _, rfl⟩ | ⟨r, _, rfl⟩
  · have none : t.takeHandOff (.ended x.1 x.2) = t := by
      simp only [State.takeHandOff, State.takeEnd, ended', Bool.false_eq_true, if_false]
    rw [none]
    exact kept
  · exact kept.trans (offer_aside r t)

/-- R143: the halt timer's expiry in HALTED. -/
theorem haltTimerExpiry_halted {s : State} {since : Nat} (halted : s.song.state = .halted)
    (timed : s.song.halt = .running since) :
    exec .haltTimerExpiry s = .next ((s.advanceTo (since + 8000000)).haltExpire).finish := by
  simp only [exec, execHaltTimerExpiry, halted, timed, haltLimit_eq]

/-- R143, R145: what the halt timer's expiry leaves of song control and the stations. -/
theorem haltExpire_finish (s : State) :
    SongAborted .clock (s.mapSong fun g => { g with halt := .stopped 500 }) s.haltExpire.finish := by
  have expired : SongAborted .clock (s.mapSong fun g => { g with halt := .stopped 500 }) s.haltExpire :=
    abortSong_spec .clock _
  obtain ⟨time, song, aborted, others⟩ := expired
  have ended : s.haltExpire.song.state.underWay = false := by
    rw [song]
    rfl
  have flushed := (flush_over ended).trans (settle_aside _)
  rw [State.finish]
  refine ⟨?_, ?_, fun k armed playing => ?_, fun k out => ?_⟩
  · rw [flushed.refTime, State.mapSong_refTime, time]
  · rw [flushed.song, State.mapSong_song, song]
    rfl
  · rw [flushed.station k, State.station_mapSong]
    exact aborted k armed playing
  · rw [flushed.station k, State.station_mapSong]
    exact others k out

/-- Settles O22: the two outcomes of the watch timer's expiry, `clockBack_song` and `haltExpire_finish`. -/
theorem watchTimerResumeEdgeAndHaltTimerExpiry : Obligations.WatchTimerResumeEdgeAndHaltTimerExpiry := by
  unfold Obligations.WatchTimerResumeEdgeAndHaltTimerExpiry
  refine ⟨⟨fun s since timed => ?_, fun s halted absent => ?_⟩, fun s since halted timed => ?_⟩
  · rw [watchTimerExpiry_timed timed]
    exact ⟨fun other => congrArg Host.Outcome.next (congrArg State.settle (clockLost_other other)),
      fun running => congrArg Host.Outcome.next (congrArg State.settle (clockLost_running running))⟩
  · obtain ⟨shared, time, clock, scanner⟩ := InnerMoves.framed ((clockBack_moves s.watchEdge).trans (settle_moves _))
    obtain ⟨state, halt⟩ := clockBack_song s.watchEdge
    exact ⟨_, wclkEdge_resume halted absent, shared, time, scanner, clock, state, _, Nat.min_le_left _ _, halt⟩
  · obtain ⟨shared, time, clock, scanner⟩ :=
      InnerMoves.framed ((haltExpire_moves (s.advanceTo (since + 8000000))).trans (finish_moves _))
    obtain ⟨_, song, aborted, others⟩ := haltExpire_finish (s.advanceTo (since + 8000000))
    refine ⟨_, haltTimerExpiry_halted halted timed, shared, time, clock, scanner, ?_, ?_, ?_, ?_, ?_, aborted, others⟩ <;>
      (rw [song]; rfl)

end Sys2Proof.Machine
end

section
/-! SUPPORT. The start edge: the clock it sets, the stations that take it, its pulse, and what it leaves. -/

namespace Sys2Proof.Machine

/-! ### The start edge, step by step (R2, R139) -/

/-- R2, R19, R139: the part as the song has left ARMED, before anything is handed on. -/
def State.started (s : State) : State :=
  { s with
    clock := { s.clock with
      songTime := BitVec.ofInt 32 s.song.startFrame, measure := 0,
      nextPulse := firstPulse s.clock.map 0 s.song.startFrame, watch := .present, watchTimer := some s.refTime },
    scanner := { s.scanner with round := s.scanner.round.map fun r : Round => { r with stamp := s.song.startFrame } },
    song := { s.song with state := .running, latch := false, halt := .stopped 0 } }

/-- R139: SONG_STARTED has been offered. -/
def State.announced (s : State) : State := s.started.notify (.songStarted s.song.armed)

/-- R2, R139: an edge in ARMED with the latch set is the start edge. -/
theorem wclkEdge_start {s : State} (armed : s.song.state = .armed) (latch : s.song.latch = true) :
    exec .wclkEdge s = .next s.announced.takeStarts.startPulse.flush.finishIfNone.settle := by
  have starts : s.watchEdge.edgeBySong (decide (s.clock.watch = .absent)) = s.watchEdge.startEdge := by
    have song : s.watchEdge.song = s.song := rfl
    simp only [State.edgeBySong, song, armed, latch, if_true]
  simp only [exec, execWclkEdge, starts]
  rfl

/-- SONG_STARTED changes no station and not song control. -/
theorem announced_aside (s : State) : Aside s.started s.announced := notify_aside _ _

theorem announced_framed (s : State) : Framed id s.started s.announced := InnerMoves.framed (notify_moves _ _)

theorem announced_station (s : State) (k : StationId) : s.announced.station k = s.station k :=
  (announced_aside s).station k

theorem announced_armed (s : State) : s.announced.song.armed = s.song.armed := by
  rw [(announced_aside s).song]
  rfl

/-! ### Stations enter PLAYING (R43) -/

/-- R43: stations enter PLAYING together. -/
theorem enterPlaying_eq (ks : List StationId) (s : State) :
    s.enterPlaying ks =
      { s with stations := Vector.ofFn fun k : StationId =>
          if k ∈ ks then { s.station k with state := .playing } else s.station k } := by
  have stations : ∀ (ks : List StationId) (s : State) (k : StationId), (s.enterPlaying ks).station k =
      if k ∈ ks then { s.station k with state := .playing } else s.station k := by
    intro ks
    induction ks with
    | nil => exact fun s k => rfl
    | cons j ks ih =>
      intro s k
      have first : s.enterPlaying (j :: ks) = (s.mapStation j fun st => { st with state := .playing }).enterPlaying ks := rfl
      rw [first, ih, State.station_mapStation]
      by_cases here : k = j <;> by_cases later : k ∈ ks <;> simp [here, later]
  have others : ∀ (ks : List StationId) (s : State),
      s.enterPlaying ks = { s with stations := (s.enterPlaying ks).stations } := by
    intro ks
    induction ks with
    | nil => exact fun s => rfl
    | cons j ks ih => exact fun s => ih _
  rw [others]
  congr 1
  refine Vector.ext fun i lt => ?_
  rw [Vector.getElem_ofFn]
  exact stations ks s ⟨i, lt⟩

theorem enterPlaying_goesOn {ks : List StationId} {s : State} (armed : ∀ k ∈ ks, StationSet.has s.song.armed k = true) :
    SongGoesOn s (s.enterPlaying ks) := by
  rw [enterPlaying_eq]
  refine ⟨rfl, rfl, rfl, rfl, .inl ⟨rfl, rfl⟩, fun k out => ?_⟩
  have notIn : k ∉ ks := fun mem => by
    rw [armed k mem] at out
    cases out
  simp [State.station, notIn]

/-- R139: what the start hands on, by the stations that it clears, those that enter PLAYING, and the state that they have
entered it in. -/
def startHands (clearing entering : List StationId) (entered : State) : List HandOff :=
  clearing.map .startClear ++ entering.flatMap entered.entryHandOffs ++ [.songStart]

theorem takeStarts_eq (s : State) :
    s.takeStarts =
      (s.enterPlaying (allStations.filter s.entersAtStart)).takeHandOffs
        (startHands (allStations.filter s.clearsAtStart) (allStations.filter s.entersAtStart)
          (s.enterPlaying (allStations.filter s.entersAtStart))) := rfl

theorem entersAtStart_armed {s : State} {k : StationId} (h : s.entersAtStart k = true) :
    StationSet.has s.song.armed k = true := by
  simp only [State.entersAtStart, Bool.and_eq_true] at h
  exact h.1.1

theorem clearsAtStart_armed {s : State} {k : StationId} (h : s.clearsAtStart k = true) :
    StationSet.has s.song.armed k = true := by
  simp only [State.clearsAtStart, Bool.and_eq_true] at h
  exact h.1.1

/-- R139: the start is handed to stations of the armed set alone. -/
theorem startHands_within {clearing entering : List StationId} {entered : State} {set : StationSet}
    (clears : ∀ k ∈ clearing, StationSet.has set k = true) (enters : ∀ k ∈ entering, StationSet.has set k = true) :
    ∀ h ∈ startHands clearing entering entered, h.Within set := by
  intro h mem
  simp only [startHands, List.mem_append, List.mem_map, List.mem_flatMap, List.mem_singleton] at mem
  rcases mem with (⟨k, mem, rfl⟩ | ⟨k, mem, entry⟩) | rfl
  · exact clears k mem
  · simp only [State.entryHandOffs, State.starveHandOffs, State.abandonHandOffs, List.mem_append, List.mem_singleton]
      at entry
    rcases entry with (entry | entry) | rfl
    · split at entry
      · obtain rfl := List.mem_singleton.mp entry
        exact enters k mem
      · cases entry
    · split at entry
      · obtain rfl := List.mem_singleton.mp entry
        trivial
      · cases entry
    · exact enters k mem
  · trivial

theorem takeStarts_goesOn (s : State) : SongGoesOn s s.takeStarts := by
  have entered : SongGoesOn s (s.enterPlaying (allStations.filter s.entersAtStart)) :=
    enterPlaying_goesOn fun k mem => entersAtStart_armed (List.mem_filter.mp mem).2
  rw [takeStarts_eq]
  refine entered.trans (takeHandOffs_goesOn (startHands_within (fun k mem => ?_) fun k mem => ?_)) <;>
    rw [entered.armed]
  · exact clearsAtStart_armed (List.mem_filter.mp mem).2
  · exact entersAtStart_armed (List.mem_filter.mp mem).2

/-! ### The pulse of the start frame (R13, R15) -/

/-- R15: a pulse due at the start frame is taken, with some of the reports on their way among its deliveries. -/
theorem startPulse_due {s : State} (due : s.pulseDue = true) :
    ∃ (early late : List Report) (cs : List Nat) (count : Nat), (early ++ late).Perm s.link.held ∧
      s.startPulse =
        State.takeHandOffs ([.songPulse (s.clock.measure + 1), .scannerPulse (s.clock.measure + 1), .cuePulse,
            .linkPulse (s.clock.measure + 1)] ++ early.map .report)
          { s.firePulse with link := { s.link with held := late }, choices := cs, choiceCount := count } := by
  obtain ⟨parts, cs, count, drawn⟩ := pickSome_spec s.link.held s.firePulse
  refine ⟨_, _, cs, count, parts, ?_⟩
  have held : s.firePulse.link.held = s.link.held := rfl
  simp only [State.startPulse, due, if_true, held]
  rw [drawn]
  rfl

theorem startPulse_none {s : State} (none : s.pulseDue = false) : s.startPulse = s := by
  simp only [State.startPulse, none, Bool.false_eq_true, if_false]

theorem pulseDue_congr {s t : State} (clock : t.clock = s.clock) : t.pulseDue = s.pulseDue := by
  rw [State.pulseDue, State.pulseDue, State.now, State.now, clock]

theorem startPulse_goesOn (s : State) : SongGoesOn s s.startPulse := by
  by_cases due : s.pulseDue = true
  · obtain ⟨early, late, cs, count, _, pulse⟩ := startPulse_due due
    have fires : SongGoesOn s
        { s.firePulse with link := { s.link with held := late }, choices := cs, choiceCount := count } :=
      Aside.goesOn ⟨rfl, rfl, rfl⟩
    rw [pulse]
    refine fires.trans (takeHandOffs_goesOn fun h mem => ?_)
    simp only [List.mem_append, List.mem_cons, List.not_mem_nil, or_false, List.mem_map] at mem
    rcases mem with (rfl | rfl | rfl | rfl) | ⟨r, _, rfl⟩ <;> trivial
  · rw [Bool.not_eq_true] at due
    rw [startPulse_none due]
    exact .refl s

/-! ### What the start edge leaves of the scanner and the clock -/

/-- The devices, the scan period and the channels stand, but for the stuck measure counts. -/
def ScannerKept (a b : Scanner) : Prop :=
  b.devices = a.devices ∧ b.period = a.period ∧
    ∀ c : PanelId, b.channels[c] = { a.channels[c] with stuckCount := (b.channels[c]).stuckCount }

theorem ScannerKept.trans {a b c : Scanner} (h : ScannerKept a b) (g : ScannerKept b c) : ScannerKept a c :=
  ⟨g.1.trans h.1, g.2.1.trans h.2.1, fun p => by rw [g.2.2 p, h.2.2 p]⟩

theorem onScanner_kept (h : HandOff) (sc : Scanner) : ScannerKept sc (h.onScanner sc) := by
  cases h with
  | scannerPulse m => exact ⟨rfl, rfl, fun c => by simp [HandOff.onScanner, Scanner.takePulse]⟩
  | _ => exact ⟨rfl, rfl, fun _ => rfl⟩

theorem scannerAfter_kept (hs : List HandOff) (sc : Scanner) : ScannerKept sc (scannerAfter hs sc) := by
  induction hs generalizing sc with
  | nil => exact ⟨rfl, rfl, fun _ => rfl⟩
  | cons h hs ih => exact (onScanner_kept h sc).trans (ih _)

/-- The shared tables, the queue of commands, reference time and the song clock stand, and the scanner but for jobs and
stuck measure counts. -/
structure Steady (s t : State) : Prop where
  shared : SharedKept s t
  refTime : t.refTime = s.refTime
  clock : t.clock = s.clock
  scanner : ScannerKept s.scanner t.scanner

theorem Framed.steady {f : Scanner → Scanner} {s t : State} (h : Framed f s t) (kept : ∀ sc, ScannerKept sc (f sc)) :
    Steady s t :=
  ⟨h.shared, h.refTime, h.clock, h.scanner ▸ kept _⟩

theorem InnerMoves.steady {s t : State} (h : InnerMoves s t) : Steady s t :=
  h.framed.steady fun _ => ⟨rfl, rfl, fun _ => rfl⟩

theorem Steady.trans {s t u : State} (h : Steady s t) (g : Steady t u) : Steady s u := by
  obtain ⟨⟨w, c, l, p⟩, time, clock, scanner⟩ := h
  obtain ⟨⟨w', c', l', p'⟩, time', clock', scanner'⟩ := g
  exact ⟨⟨w'.trans w, c'.trans c, l'.trans l, p'.trans p⟩, time'.trans time, clock'.trans clock, scanner.trans scanner'⟩

/-- A pulse fires alike on two states whose clocks are one. -/
theorem Steady.firePulse {s t : State} (h : Steady s t) : Steady s.firePulse t.firePulse := by
  obtain ⟨shared, time, clock, scanner⟩ := h
  refine ⟨shared, time, ?_, scanner⟩
  rw [State.firePulse, State.firePulse, State.mapClock_clock, State.mapClock_clock, clock]

theorem takeHandOffs_steady (hs : List HandOff) (s : State) : Steady s (s.takeHandOffs hs) := by
  obtain ⟨order, _, framed⟩ := takeHandOffs_framed hs s
  exact framed.steady (scannerAfter_kept order)

theorem takeStarts_steady (s : State) : Steady s s.takeStarts := by
  rw [takeStarts_eq]
  refine Steady.trans ?_ (takeHandOffs_steady _ _)
  rw [enterPlaying_eq]
  exact ⟨⟨rfl, rfl, rfl, rfl⟩, rfl, rfl, rfl, rfl, fun _ => rfl⟩

/-- R13: the pulse of the start frame changes the clock as it fires, and nothing else that `Steady` names. -/
theorem startPulse_steady {s : State} (due : s.pulseDue = true) : Steady s.firePulse s.startPulse := by
  obtain ⟨early, late, cs, count, _, pulse⟩ := startPulse_due due
  rw [pulse]
  refine Steady.trans ?_ (takeHandOffs_steady _ _)
  exact ⟨⟨rfl, rfl, rfl, rfl⟩, rfl, rfl, rfl, rfl, fun _ => rfl⟩

theorem startEnd_steady (s : State) : Steady s s.flush.finishIfNone.settle :=
  InnerMoves.steady (((flush_moves s).trans (finishIfNone_moves _)).trans (settle_moves _))

/-- R139: what the start edge leaves of song control and the stations. -/
theorem startEdge_goesOn (s : State) :
    SongGoesOn s.announced s.announced.takeStarts.startPulse.flush.finishIfNone.settle :=
  ((((takeStarts_goesOn _).trans (startPulse_goesOn _)).trans (flush_goesOn _)).trans (finishIfNone_goesOn _)).trans
    (settle_aside _).goesOn

/-- R2, R13: what the start edge leaves of the clock and the scanner, with no pulse at the start frame. -/
theorem startEdge_steady_none {s : State} (none : s.started.pulseDue = false) :
    Steady s.started s.announced.takeStarts.startPulse.flush.finishIfNone.settle := by
  have begun : Steady s.started s.announced.takeStarts :=
    (InnerMoves.steady (notify_moves _ s.started)).trans (takeStarts_steady _)
  rw [startPulse_none ((pulseDue_congr begun.clock).trans none)]
  exact begun.trans (startEnd_steady _)

/-- R2, R13: what it leaves of them with a pulse at the start frame, which fires. -/
theorem startEdge_steady_pulse {s : State} (due : s.started.pulseDue = true) :
    Steady s.started.firePulse s.announced.takeStarts.startPulse.flush.finishIfNone.settle := by
  have begun : Steady s.started s.announced.takeStarts :=
    (InnerMoves.steady (notify_moves _ s.started)).trans (takeStarts_steady _)
  have due' : s.announced.takeStarts.pulseDue = true := (pulseDue_congr begun.clock).trans due
  exact (begun.firePulse.trans (startPulse_steady due')).trans (startEnd_steady _)

/-- R2: song time takes the start frame. -/
theorem started_now {s : State} (low : -2147483648 ≤ s.song.startFrame) (high : s.song.startFrame ≤ 2147483647) :
    s.started.now = s.song.startFrame :=
  BitVec.toInt_ofInt_eq_self (by decide) (by omega) (by omega)

/-- R2, R13, R139: what the start edge leaves of song control, the stations, the clock and the scanner. -/
theorem wclkEdge_start_leaves {s : State} (armed : s.song.state = .armed) (latch : s.song.latch = true) :
    ∃ t, exec .wclkEdge s = .next t ∧ SongGoesOn s.announced t ∧
      (s.started.pulseDue = false → Steady s.started t) ∧ (s.started.pulseDue = true → Steady s.started.firePulse t) :=
  ⟨_, wclkEdge_start armed latch, startEdge_goesOn s, startEdge_steady_none, startEdge_steady_pulse⟩

/-- R139: song control's record behind the start edge. -/
theorem started_song {s t : State} (goes : SongGoesOn s.announced t) :
    t.song.latch = false ∧ (t.song.state = .running ∨ t.song.state = .finished) ∧ t.song.armed = s.song.armed ∧
      t.song.startFrame = s.song.startFrame := by
  obtain ⟨_, armed, startFrame, latch, course, _⟩ := goes
  have announced : s.announced.song = s.started.song := (announced_aside s).song
  rw [announced] at armed startFrame latch course
  exact ⟨latch, course.elim (fun h => .inl h.1) fun h => .inr h.2.1, armed, startFrame⟩

/-- Settles O20: `started_song` for song control, and the clock and the scanner with and without a pulse at the start
frame. -/
theorem startEdge : Obligations.StartEdge := by
  unfold Obligations.StartEdge
  intro s armed latch low high
  have now := started_now low high
  obtain ⟨t, next, goes, quiet, pulse⟩ := wclkEdge_start_leaves armed latch
  obtain ⟨latch', state, armed', startFrame⟩ := started_song goes
  have stations : ∀ k, StationSet.has s.song.armed k = false → t.station k = s.station k := fun k out =>
    (goes.unarmed k (by rw [announced_armed]; exact out)).trans (announced_station s k)
  by_cases due : s.started.pulseDue = true
  · obtain ⟨shared, time, clock, devices, period, channels⟩ := pulse due
    refine ⟨t, next, shared, time, ?_, ?_, ?_, ?_, ?_, fun p placed here => ?_, fun none => ?_, latch', state, armed',
      startFrame, devices, period, channels, stations⟩
    · rw [clock]
      exact now
    · rw [clock]
      rfl
    · rw [clock]
      rfl
    · rw [clock]
      rfl
    · rw [clock]
      rfl
    · rw [clock, ← now]
      exact ⟨rfl, rfl⟩
    · obtain ⟨p, placed, here⟩ := (pulseDue_iff _).mp due
      exact absurd (here.trans now) (none p placed)
  · rw [Bool.not_eq_true] at due
    obtain ⟨shared, time, clock, devices, period, channels⟩ := quiet due
    refine ⟨t, next, shared, time, ?_, ?_, ?_, ?_, ?_, fun p placed here => ?_, fun none => ?_, latch', state, armed',
      startFrame, devices, period, channels, stations⟩
    · rw [clock]
      exact now
    · rw [clock]
      rfl
    · rw [clock]
      rfl
    · rw [clock]
      rfl
    · rw [clock]
      rfl
    · exact absurd (here.trans now.symm) ((not_pulseDue_iff _).mp due p placed)
    · rw [clock]
      exact ⟨rfl, rfl⟩

end Sys2Proof.Machine
end

section
/-! SUPPORT. What the start edge hands on, how each block takes it, and the finish where no station plays. -/

namespace Sys2Proof.Machine

/-! ### What the start edge hands on (R139) -/

/-- R43: the station has a chart and belongs to the song. -/
def State.startLoaded (s : State) (k : StationId) : Bool :=
  StationSet.has s.song.armed k && decide ((s.station k).state = .loaded)

/-- R43: the station's queue holds only an END_MARK that is due at the start frame. -/
def State.startEnding (s : State) (k : StationId) : Bool := (s.station k).onlyEndMark s.started.now

/-- The offer of SONG_STARTED leaves song time. -/
theorem announced_now (s : State) : s.announced.now = s.started.now := by
  rw [State.now, State.now, (announced_framed s).clock]

theorem announced_entersAtStart (s : State) :
    s.announced.entersAtStart = fun k => s.startLoaded k && !s.startEnding k := by
  funext k
  rw [State.entersAtStart, announced_armed, announced_station, announced_now]
  rfl

theorem announced_clearsAtStart (s : State) :
    s.announced.clearsAtStart = fun k => s.startLoaded k && s.startEnding k := by
  funext k
  rw [State.clearsAtStart, announced_armed, announced_station, announced_now]
  rfl

/-- R43: the part with the stations that enter PLAYING at the start edge. -/
def State.entered (s : State) (entering : List StationId) : State :=
  { s.announced with stations := Vector.ofFn fun k : StationId =>
      if k ∈ entering then { s.station k with state := .playing } else s.station k }

theorem announced_enterPlaying (s : State) (entering : List StationId) :
    s.announced.enterPlaying entering = s.entered entering := by
  rw [enterPlaying_eq, State.entered]
  simp only [announced_station]

theorem entryHandOffs_eq (s : State) (k : StationId) :
    s.entryHandOffs k =
      (if s.starvingDue k = true ∨ s.starvedDue k = true then [.starve k] else []) ++
        (if (s.scanner.groups[k]).job ≠ none then [.abandon k] else []) ++ [.enter k] := by
  simp only [State.entryHandOffs, State.starveHandOffs, State.abandonHandOffs, Bool.or_eq_true,
    Option.isSome_iff_ne_none]

/-- R139: the calibration jobs stand until the start is handed on. -/
theorem entered_groups (s : State) (entering : List StationId) :
    (s.entered entering).scanner.groups = s.scanner.groups := by
  have scanner : (s.entered entering).scanner = s.started.scanner := (announced_framed s).scanner
  rw [scanner]
  rfl

theorem startHands_eq (s : State) (clearing entering : List StationId) :
    startHands clearing entering (s.entered entering) =
      clearing.map HandOff.startClear ++
        (entering.flatMap fun k : StationId =>
          (if (s.entered entering).starvingDue k = true ∨ (s.entered entering).starvedDue k = true then [.starve k]
            else []) ++
            (if (s.scanner.groups[k]).job ≠ none then [.abandon k] else []) ++ [.enter k]) ++ [.songStart] := by
  have entry : (s.entered entering).entryHandOffs = fun k : StationId =>
      (if (s.entered entering).starvingDue k = true ∨ (s.entered entering).starvedDue k = true then [.starve k]
        else []) ++
        (if (s.scanner.groups[k]).job ≠ none then [.abandon k] else []) ++ [.enter k] :=
    funext fun k => by rw [entryHandOffs_eq, entered_groups]
  rw [startHands, entry]

/-- R139: the start as it is handed on. -/
theorem announced_takeStarts (s : State) :
    s.announced.takeStarts =
      (s.entered (allStations.filter fun k => s.startLoaded k && !s.startEnding k)).takeHandOffs
        (startHands (allStations.filter fun k => s.startLoaded k && s.startEnding k)
          (allStations.filter fun k => s.startLoaded k && !s.startEnding k)
          (s.entered (allStations.filter fun k => s.startLoaded k && !s.startEnding k))) := by
  rw [takeStarts_eq, announced_entersAtStart, announced_clearsAtStart, announced_enterPlaying]

/-! ### How a station takes the start (R43, R68) -/

/-- R43: a queue of END_MARKs that are due leaves whole, and sets END-passed. -/
theorem passEnds_all {start : Int} {st : Station} (some : st.queue ≠ [])
    (all : ∀ e ∈ st.queue, e.body = .endMark ∧ e.frame ≤ start) :
    st.passEnds start = { st with queue := [], endPassed := true } := by
  have due : ∀ e ∈ st.queue, e.endMarkBy start = true := fun e mem => by
    obtain ⟨body, frame⟩ := all e mem
    simp [Entry.endMarkBy, body, frame]
  have drained : (st.queue.filter fun e => !e.endMarkBy start) = [] :=
    List.filter_eq_nil_iff.mpr fun e mem => by simp [due e mem]
  have passed : st.queue.any (Entry.endMarkBy start) = true := by
    obtain ⟨e, mem⟩ := List.exists_mem_of_ne_nil _ some
    exact List.any_eq_true.mpr ⟨e, mem, due e mem⟩
  rw [Station.passEnds, drained, passed, Bool.or_true]

/-- R43: the start to a station whose queue holds only END_MARKs that are due. -/
theorem clearAtStart_all {s : State} {k : StationId} (some : (s.station k).queue ≠ [])
    (all : ∀ e ∈ (s.station k).queue, e.body = .endMark ∧ e.frame ≤ s.now) :
    s.clearAtStart k =
      (s.mapStation k fun st => { st with queue := [], endPassed := true }).endStation k .cleared := by
  have passed : s.mapStation k (Station.passEnds s.now) =
      s.mapStation k fun st => { st with queue := [], endPassed := true } :=
    State.mapStation_congr s (passEnds_all some all)
  rw [State.clearAtStart, passed]

theorem mem_allLanes (l : LaneId) : l ∈ allLanes := by
  revert l
  decide

theorem getLsbD_oneLane (j l : LaneId) : (1#9 <<< j.val).getLsbD l.val = decide (l = j) := by
  revert j l
  decide

/-- The lanes of a set by a test are those that pass it. -/
theorem getLsbD_laneSetOf (f : LaneId → Bool) (l : LaneId) : (laneSetOf f).getLsbD l.val = f l := by
  have folded : ∀ (ls : List LaneId) (acc : LaneSet),
      (ls.foldl (fun acc l => if f l then acc ||| (1#9 <<< l.val) else acc) acc).getLsbD l.val =
        (acc.getLsbD l.val || (decide (l ∈ ls) && f l)) := by
    intro ls
    induction ls with
    | nil => exact fun acc => by simp
    | cons j ls ih =>
      intro acc
      rw [List.foldl_cons, ih]
      by_cases here : l = j
      · subst here
        by_cases pass : f l = true
        · rw [if_pos pass, BitVec.getLsbD_or, getLsbD_oneLane]
          simp [pass]
        · simp [pass]
      · by_cases pass : f j = true
        · rw [if_pos pass, BitVec.getLsbD_or, getLsbD_oneLane]
          simp [here]
        · simp [pass, here]
  rw [laneSetOf, folded]
  simp [mem_allLanes]

/-! ### The finish at the start edge (R139) -/

theorem finishIfNone_playing {s : State}
    (playing : s.song.state ≠ .running ∨
      ∃ k, StationSet.has s.song.armed k = true ∧ (s.station k).state = .playing) :
    s.finishIfNone = s := by
  refine if_neg fun none => ?_
  rw [Bool.and_eq_true, decide_eq_true_eq, List.isEmpty_iff] at none
  obtain ⟨running, idle⟩ := none
  rcases playing with other | ⟨k, here⟩
  · exact other running
  · have mem := mem_armedPlaying.mpr here
    rw [idle] at mem
    cases mem

theorem finishIfNone_idle {s : State} (running : s.song.state = .running)
    (idle : ∀ k, StationSet.has s.song.armed k = true → (s.station k).state ≠ .playing) :
    s.finishIfNone = s.finishSong := by
  have none : s.armedPlaying = [] := List.eq_nil_iff_forall_not_mem.mpr fun k mem =>
    idle k (mem_armedPlaying.mp mem).1 (mem_armedPlaying.mp mem).2
  refine if_pos ?_
  rw [Bool.and_eq_true, decide_eq_true_eq, List.isEmpty_iff]
  exact ⟨running, none⟩

/-- R146: the natural finish changes song control alone, but for its notice. -/
theorem finishSong_aside (s : State) :
    Aside (s.mapSong (Song.finish .complete (s.song.halt.ms s.refTime))) s.finishSong := offer_aside _ _

/-- R15: song control takes a pulse due at the start frame, with the other blocks. -/
theorem startPulse_taken {s : State} (due : s.pulseDue = true) :
    ∃ (early late : List Report) (u : State), (early ++ late).Perm s.link.held ∧
      u = { s.firePulse with
        link := { s.link with held := late }, choices := u.choices, choiceCount := u.choiceCount } ∧
      s.startPulse =
        u.takeHandOffs ([.songPulse (s.clock.measure + 1), .scannerPulse (s.clock.measure + 1), .cuePulse,
          .linkPulse (s.clock.measure + 1)] ++ early.map .report) := by
  obtain ⟨early, late, cs, count, parts, taken⟩ := startPulse_due due
  exact ⟨early, late, _, parts, rfl, taken⟩

/-- Settles O21: `announced_takeStarts` and `startHands_eq` for what is handed on, a lemma for each hand-off, and
`startPulse_taken`, `finishIfNone_idle` and `finishIfNone_playing` for what follows. -/
theorem stationsTakeTheStartEdge : Obligations.StationsTakeTheStartEdge := by
  unfold Obligations.StationsTakeTheStartEdge
  refine ⟨fun s armed latch => ?_, fun k s => ⟨rfl, fun some ends => ?_, ?_, fun idle => ?_, fun running => ?_⟩,
    fun s => ⟨fun none => ?_, fun p placed here => ?_, fun running idle => ⟨?_, ?_⟩, finishIfNone_playing⟩⟩
  · rw [wclkEdge_start armed latch, announced_takeStarts, startHands_eq]
    rfl
  · exact clearAtStart_all some ends
  · refine ⟨laneSetOf fun l => s.lanePressing k l, fun l => ?_, rfl⟩
    rw [getLsbD_laneSetOf, State.lanePressing, decide_eq_true_eq]
  · exact abandonNow_idle idle
  · exact abandonNow_running running
  · exact startPulse_none ((not_pulseDue_iff s).mpr none)
  · exact startPulse_taken ((pulseDue_iff s).mpr ⟨p, placed, here⟩)
  · rw [finishIfNone_idle running idle, (finishSong_aside s).song]
    rfl
  · rw [finishIfNone_idle running idle, (finishSong_aside s).stations]
    rfl

end Sys2Proof.Machine
end

section
/-! SUPPORT. One panel channel at a round end (chapter 02): its contact state machine state by state, the stuck check,
the turn of its device, and the presence record of the device. -/

namespace Sys2Proof.Machine

/-! ### The contact state machine (R24, R25, R28) -/

/-- R24: UP. -/
theorem takeLevel_up {c : Channel} (up : c.contact = .up) (stamp : Int) :
    c.takeLevel stamp =
      if c.level < c.p then (c, none)
      else if c.dp = 1 then
        ({ c with contact := .down, dwell := 1, stuckCount := 0, crossing := none }, some (.press, stamp))
      else ({ c with contact := .pressing, dwell := 1, crossing := some stamp }, none) := by
  simp only [Channel.takeLevel, up, Channel.confirmPress]

/-- R24: PRESSING. -/
theorem takeLevel_pressing {c : Channel} (pressing : c.contact = .pressing) (stamp : Int) :
    c.takeLevel stamp =
      if c.level < c.p then ({ c with contact := .up, dwell := 0, crossing := none }, some (.withdrawn, stamp))
      else if c.dp ≤ c.dwell + 1 then
        ({ c with contact := .down, dwell := c.dwell + 1, stuckCount := 0, crossing := none },
          some (.press, c.crossing.getD stamp))
      else ({ c with dwell := c.dwell + 1 }, none) := by
  simp only [Channel.takeLevel, pressing, Channel.confirmPress]

/-- R25: DOWN. -/
theorem takeLevel_down {c : Channel} (down : c.contact = .down) (stamp : Int) :
    c.takeLevel stamp =
      if c.q ≤ c.level then (c, none)
      else if c.dr = 1 then
        ({ c with contact := .up, dwell := 1, stuckCount := 0, crossing := none }, some (.release .confirmed, stamp))
      else ({ c with contact := .releasing, dwell := 1, crossing := some stamp }, none) := by
  simp only [Channel.takeLevel, down, Channel.confirmRelease]

/-- R25: RELEASING. -/
theorem takeLevel_releasing {c : Channel} (releasing : c.contact = .releasing) (stamp : Int) :
    c.takeLevel stamp =
      if c.q ≤ c.level then ({ c with contact := .down, dwell := 0, crossing := none }, none)
      else if c.dr ≤ c.dwell + 1 then
        ({ c with contact := .up, dwell := c.dwell + 1, stuckCount := 0, crossing := none },
          some (.release .confirmed, c.crossing.getD stamp))
      else ({ c with dwell := c.dwell + 1 }, none) := by
  simp only [Channel.takeLevel, releasing, Channel.confirmRelease]

/-- R28: STUCK. -/
theorem takeLevel_stuck {c : Channel} (stuck : c.contact = .stuck) (stamp : Int) :
    c.takeLevel stamp =
      if c.q ≤ c.level then ({ c with dwell := 0 }, none)
      else if c.dr ≤ c.dwell + 1 then ({ c with contact := .up, dwell := c.dwell + 1, stuckCount := 0 }, none)
      else ({ c with dwell := c.dwell + 1 }, none) := by
  simp only [Channel.takeLevel, stuck]

/-- R22: FAULT. -/
theorem takeLevel_fault {c : Channel} (fault : c.contact = .fault) (stamp : Int) : c.takeLevel stamp = (c, none) := by
  simp only [Channel.takeLevel, fault]

/-! ### Stuck panels (R27, R28) -/

theorem isDown_iff (k : Contact) : k.isDown = true ↔ k = .down ∨ k = .releasing := by
  cases k <;> simp [Contact.isDown]

theorem stuckDue_iff (c : Channel) :
    c.stuckDue = true ↔ (c.contact = .down ∨ c.contact = .releasing) ∧ 16 ≤ c.stuckCount := by
  rw [Channel.stuckDue, Bool.and_eq_true, isDown_iff, decide_eq_true_eq]

theorem not_stuckDue_iff (c : Channel) :
    c.stuckDue = false ↔ (c.contact ≠ .down ∧ c.contact ≠ .releasing) ∨ c.stuckCount < 16 := by
  rw [← Bool.not_eq_true, stuckDue_iff, not_and_or, not_or, Nat.not_le]

theorem stuckCheck_due {c : Channel} (due : c.stuckDue = true) (stamp : Int) (e : Option ChannelEvent) :
    Channel.stuckCheck stamp (c, e) =
      ({ c with contact := .stuck, dwell := 0, crossing := none }, some (.release .stuck, stamp), true) := if_pos due

theorem stuckCheck_not_due {c : Channel} (notDue : c.stuckDue = false) (stamp : Int) (e : Option ChannelEvent) :
    Channel.stuckCheck stamp (c, e) = (c, e, false) := if_neg (Bool.eq_false_iff.mp notDue)

/-- R27: a measure pulse on the stuck count of one channel; the first measure of a song starts the counts. -/
theorem takePulse_channel (sc : Scanner) (p : PanelId) (measure : Half) :
    (sc.takePulse measure).channels[p] =
      (let c := sc.channels[p]
       let base := if measure = 1 then 0 else c.stuckCount
       { c with stuckCount := if c.contact.isDown then min 16 (base + 1) else base }) := by
  simp [Scanner.takePulse]

/-! ### One channel by the turn of its device (R19, R21, R22) -/

/-- R28: the event with which a channel enters FAULT. -/
theorem enterFault_eq (stamp : Int) (c : Channel) :
    c.enterFault stamp =
      ({ c with contact := .fault, dwell := 0, crossing := none, stuckCount := 0 },
        if c.contact = .down ∨ c.contact = .releasing then some (.release .fault, stamp)
        else if c.contact = .pressing then some (.withdrawn, stamp) else none) := by
  unfold Channel.enterFault
  cases h : c.contact <;> simp

/-- R19, R28: a channel not due for STUCK whose device is lost. -/
theorem roundEnd_lost {c : Channel} {stuckFirst : Bool} (plain : (stuckFirst && c.stuckDue) = false) (stamp : Int)
    (reading : Nat) :
    c.roundEnd stuckFirst stamp .lost reading =
      ({ c with contact := .fault, dwell := 0, crossing := none, stuckCount := 0 },
        if c.contact = .down ∨ c.contact = .releasing then some (.release .fault, stamp)
        else if c.contact = .pressing then some (.withdrawn, stamp) else none, false) := by
  simp only [Channel.roundEnd, plain, Bool.false_eq_true, if_false, enterFault_eq]

/-- Log 17: a channel due for STUCK whose device is lost, where the stuck check comes first. -/
theorem roundEnd_lost_stuck {c : Channel} (due : c.stuckDue = true) (stamp : Int) (reading : Nat) :
    c.roundEnd true stamp .lost reading =
      ({ c with contact := .fault, dwell := 0, crossing := none, stuckCount := 0 }, some (.release .stuck, stamp),
        true) := by
  simp only [Channel.roundEnd, due, Bool.and_self, if_true, stuckCheck_due due, enterFault_eq]

/-- Settles O27: the equations of `takeLevel` state by state, the stuck check, and a round end by the device's turn. -/
theorem contactStateMachineAndStuckPanels : Obligations.ContactStateMachineAndStuckPanels := by
  unfold Obligations.ContactStateMachineAndStuckPanels
  refine ⟨fun c reading stamp crossing => ?_, fun sc p measure c e stamp => ?_, fun c reading stamp stuckFirst => ?_⟩
  · intro c'
    refine ⟨rfl, rfl, fun up low => ?_, fun up high one => ?_, fun up high more => ?_, fun pressing high early => ?_,
      fun pressing high due since => ?_, fun pressing low => ?_, fun down high => ?_, fun down low more => ?_,
      fun down low one => ?_, fun releasing low early => ?_, fun releasing low due since => ?_,
      fun releasing high => ?_⟩
    · exact (takeLevel_up (c := c') up stamp).trans (if_pos low)
    · exact (takeLevel_up (c := c') up stamp).trans ((if_neg (Nat.not_lt.mpr high)).trans (if_pos one))
    · exact (takeLevel_up (c := c') up stamp).trans ((if_neg (Nat.not_lt.mpr high)).trans (if_neg more))
    · exact (takeLevel_pressing (c := c') pressing stamp).trans
        ((if_neg (Nat.not_lt.mpr high)).trans (if_neg (Nat.not_le.mpr early)))
    · have crossed : c'.crossing.getD stamp = crossing := by rw [show c'.crossing = some crossing from since]; rfl
      rw [← crossed]
      exact (takeLevel_pressing (c := c') pressing stamp).trans ((if_neg (Nat.not_lt.mpr high)).trans (if_pos due))
    · exact (takeLevel_pressing (c := c') pressing stamp).trans (if_pos low)
    · exact (takeLevel_down (c := c') down stamp).trans (if_pos high)
    · exact (takeLevel_down (c := c') down stamp).trans ((if_neg (Nat.not_le.mpr low)).trans (if_neg more))
    · exact (takeLevel_down (c := c') down stamp).trans ((if_neg (Nat.not_le.mpr low)).trans (if_pos one))
    · exact (takeLevel_releasing (c := c') releasing stamp).trans
        ((if_neg (Nat.not_le.mpr low)).trans (if_neg (Nat.not_le.mpr early)))
    · have crossed : c'.crossing.getD stamp = crossing := by rw [show c'.crossing = some crossing from since]; rfl
      rw [← crossed]
      exact (takeLevel_releasing (c := c') releasing stamp).trans ((if_neg (Nat.not_le.mpr low)).trans (if_pos due))
    · exact (takeLevel_releasing (c := c') releasing stamp).trans (if_pos high)
  · refine ⟨fun down => ?_, fun notDown notReleasing => ?_,
      fun down due => stuckCheck_due ((stuckDue_iff c).mpr ⟨down, due⟩) _ _,
      fun notDue => stuckCheck_not_due ((not_stuckDue_iff c).mpr notDue) _ _, fun stuck high => ?_,
      fun stuck low early => ?_, fun stuck low due => ?_, fun fault => takeLevel_fault fault stamp⟩
    · simp only [takePulse_channel, (isDown_iff _).mpr down, if_true]
    · have up : (sc.channels[p]).contact.isDown = false := by
        rw [← Bool.not_eq_true, isDown_iff]
        exact not_or.mpr ⟨notDown, notReleasing⟩
      simp only [takePulse_channel, up, Bool.false_eq_true, if_false]
    · rw [takeLevel_stuck stuck, if_pos high]
    · rw [takeLevel_stuck stuck, if_neg (Nat.not_le.mpr low), if_neg (Nat.not_le.mpr early)]
    · rw [takeLevel_stuck stuck, if_neg (Nat.not_le.mpr low), if_pos due]
  · refine ⟨rfl, rfl, fun due => ?_, fun notDue => ?_, rfl, rfl⟩
    · refine ⟨(roundEnd_lost (stuckFirst := false) rfl stamp reading).trans ?_,
        roundEnd_lost_stuck ((stuckDue_iff c).mpr due) stamp reading⟩
      rw [if_pos due.1]
    · have notDue := Bool.eq_false_iff.mpr (mt (stuckDue_iff c).mp notDue)
      exact roundEnd_lost (by rw [notDue, Bool.and_false]) stamp reading

/-! ### Device presence (R21, R22) -/

/-- R21: the turn of a PRESENT device. -/
theorem turn_present {d : Device} (present : d.presence = .present) (answered : Bool) :
    d.turn answered = if answered then .reads else if d.unanswered < 2 then .misses else .lost := by
  simp only [Device.turn, present]

/-- R22: the turn of an ABSENT device. -/
theorem turn_absent {d : Device} (absent : d.presence = .absent) (answered : Bool) :
    d.turn answered = if answered = true ∧ 7 ≤ d.answered then .returns else .away := by
  simp only [Device.turn, absent, Bool.and_eq_true, decide_eq_true_eq]

/-- R21: an unanswered round of a channel not due for STUCK. -/
theorem roundEnd_misses {c : Channel} (notDue : c.stuckDue = false) (stuckFirst : Bool) (stamp : Int) (reading : Nat) :
    c.roundEnd stuckFirst stamp .misses reading = (c, none, false) := stuckCheck_not_due notDue stamp none

/-- Settles O28: the turn of the device in each row, and what that turn does to the record and to the channel. -/
theorem devicePresence : Obligations.DevicePresence := by
  unfold Obligations.DevicePresence
  intro d c stamp reading answered notDue after
  refine ⟨fun present => ?_, fun present few => ?_, fun present many => ?_, fun absent => ?_, fun absent few => ?_,
    fun absent seven => ?_, fun absent => ?_⟩
  · have turn : d.turn true = .reads := by rw [turn_present present, if_pos rfl]
    simp only [Device.update, turn, present, and_self]
  · have turn : d.turn false = .misses := by rw [turn_present present, if_neg Bool.false_ne_true, if_pos few]
    simp only [after, Device.update, turn, roundEnd_misses notDue, and_self]
  · have turn : d.turn false = .lost := by
      rw [turn_present present, if_neg Bool.false_ne_true, if_neg (Nat.not_lt.mpr many)]
    simp only [after, Device.update, turn, roundEnd_lost (stuckFirst := false) rfl, and_self]
  · have turn : d.turn false = .away := by rw [turn_absent absent, if_neg (fun h => Bool.false_ne_true h.1)]
    simp only [Device.update, turn, Bool.false_eq_true, if_false, absent, and_self]
  · have turn : d.turn true = .away := by rw [turn_absent absent, if_neg (fun h => Nat.not_le.mpr few h.2)]
    simp only [after, Device.update, turn, if_true, true_and]
    rfl
  · have turn : d.turn true = .returns := by rw [turn_absent absent, if_pos ⟨rfl, Nat.le_of_eq seven.symm⟩]
    simp only [after, Device.update, turn, true_and]
    rfl
  · have turn := turn_absent absent answered
    by_cases back : answered = true ∧ 7 ≤ d.answered
    · rw [if_pos back] at turn
      simp only [after, turn]
      rfl
    · rw [if_neg back] at turn
      simp only [after, turn]
      rfl

end Sys2Proof.Machine
end

section
/-! SUPPORT. The scanner's requests (R20, R29, R30, R34), and the panel channels by station and lane. -/

namespace Sys2Proof.Machine

/-! ### Panel channels by station and lane -/

/-- Reading a vector after one member was replaced. -/
theorem getElem_set_fin {α : Type} {n : Nat} (v : Vector α n) (c d : Fin n) (x : α) :
    (v.set c x)[d] = if d = c then x else v[d] := by
  show (v.set c x)[d.val] = _
  rw [Vector.getElem_set]
  simp only [Fin.ext_iff, eq_comm (a := c.val)]
  rfl

theorem panelOf_inj {j k : StationId} {l m : LaneId} : panelOf j m = panelOf k l ↔ j = k ∧ m = l := by
  simp only [panelOf, Fin.ext_iff]
  omega

@[simp] theorem stationOfPanel_panelOf (k : StationId) (l : LaneId) : stationOfPanel (panelOf k l) = k := by
  simp only [stationOfPanel, panelOf, Fin.ext_iff]
  omega

@[simp] theorem laneOfPanel_panelOf (k : StationId) (l : LaneId) : laneOfPanel (panelOf k l) = l := by
  simp only [laneOfPanel, panelOf, Fin.ext_iff]
  omega

theorem exists_panelOf (c : PanelId) : ∃ k l, c = panelOf k l := by
  refine ⟨stationOfPanel c, laneOfPanel c, ?_⟩
  simp only [stationOfPanel, laneOfPanel, panelOf, Fin.ext_iff]
  omega

/-- The channels of some lanes of station k that pass a test, each changed by f. -/
def changeLanes (k : StationId) (test : LaneId → Channel → Bool) (f : LaneId → Channel → Channel) (ls : List LaneId)
    (chs : Vector Channel 36) : Vector Channel 36 :=
  ls.foldl (fun chs l =>
    if test l chs[panelOf k l] then chs.set (panelOf k l) (f l chs[panelOf k l]) else chs) chs

/-- A channel after the lanes of station k were worked on, each once. -/
theorem getElem_changeLanes (k : StationId) (test : LaneId → Channel → Bool) (f : LaneId → Channel → Channel)
    {ls : List LaneId} (nodup : ls.Nodup) (chs : Vector Channel 36) (j : StationId) (m : LaneId) :
    (changeLanes k test f ls chs)[panelOf j m] =
      if j = k ∧ m ∈ ls ∧ test m chs[panelOf j m] = true then f m chs[panelOf j m] else chs[panelOf j m] := by
  induction ls generalizing chs with
  | nil => simp [changeLanes]
  | cons l ls ih =>
    obtain ⟨fresh, nodup⟩ := List.nodup_cons.mp nodup
    refine (ih nodup _).trans ?_
    by_cases here : j = k ∧ m = l
    · obtain ⟨rfl, rfl⟩ := here
      by_cases pass : test m chs[panelOf j m] = true
      · simp only [fresh, false_and, and_false, if_false, pass, if_true, getElem_set_fin, List.mem_cons_self, and_self]
      · simp only [pass, fresh, and_false, if_false, Bool.false_eq_true]
    · have other : panelOf j m ≠ panelOf k l := mt panelOf_inj.mp here
      have step : (if test l chs[panelOf k l] = true then chs.set (panelOf k l) (f l chs[panelOf k l])
          else chs)[panelOf j m] = chs[panelOf j m] := by
        split
        · rw [getElem_set_fin, if_neg other]
        · rfl
      have mem : j = k → (m ∈ l :: ls ↔ m ∈ ls) := fun same =>
        ⟨fun h => (List.mem_cons.mp h).resolve_left fun e => here ⟨same, e⟩, .tail l⟩
      simp only [step]
      refine if_congr (and_congr_right fun same => ?_) rfl rfl
      rw [mem same]

/-- The lanes of a station worked on, each once. -/
theorem getElem_changeLanes_all (k : StationId) (test : LaneId → Channel → Bool) (f : LaneId → Channel → Channel)
    (chs : Vector Channel 36) (j : StationId) (m : LaneId) :
    (changeLanes k test f allLanes chs)[panelOf j m] =
      if j = k ∧ test m chs[panelOf j m] = true then f m chs[panelOf j m] else chs[panelOf j m] := by
  rw [getElem_changeLanes k test f (by decide)]
  simp only [mem_allLanes, true_and]

/-! ### Requests that the scanner takes -/

/-- A request that changes the scanner and nothing else, but for its reply. -/
theorem submit_scanner {i : Instr} {take : State → State × Reply} {s : State} {f : Scanner → Scanner} {r : Reply}
    (wf : i.wf = true) (h : s.ready) (taken : take s = (s.mapScanner f, r)) :
    s.submit i take = (s.mapScanner f).replied r :=
  submit_eq wf h taken rfl rfl rfl rfl rfl

/-- R188: no station has a number above 3. -/
theorem stationOf_none {b : Byte} (beyond : 3 < b.toNat) : stationOf b = none := dif_neg (by omega)

theorem stationOf_some {b : Byte} {k : StationId} (named : b.toNat = k.val) : stationOf b = some k :=
  (dif_pos (by omega)).trans (congrArg some (Fin.ext named))

/-! ### SCAN_SET (R20) -/

theorem scanPeriodOk_iff (period : Half) :
    scanPeriodOk period.toNat = true ↔ period = 500#16 ∨ period = 1000#16 ∨ period = 2000#16 := by
  rw [scanPeriodOk, decide_eq_true_eq]
  simp only [← BitVec.toNat_inj, BitVec.toNat_ofNat, Nat.reducePow, Nat.reduceMod]

/-! ### PANEL_SET (R29) -/

/-- R29: the values of PANEL_SET, its station apart, are in their ranges. -/
theorem panelRecOk_iff (r : PanelRec) :
    PanelRecOk r = true ↔ r.laneMask.extractLsb' 0 9 ≠ 0 ∧ (1 ≤ r.p.toNat ∧ r.p.toNat ≤ 1023) ∧
      (1 ≤ r.q.toNat ∧ r.q.toNat < r.p.toNat) ∧ (1 ≤ r.dp.toNat ∧ r.dp.toNat ≤ 8) ∧
      (1 ≤ r.dr.toNat ∧ r.dr.toNat ≤ 8) := by
  simp only [PanelRecOk, Bool.and_eq_true, decide_eq_true_eq, and_assoc]
  rfl

/-- R29, R188: what PANEL_SET refuses. -/
theorem takePanelSet_refused {r : PanelRec}
    (bad : 3 < r.station.toNat ∨ r.laneMask.extractLsb' 0 9 = 0 ∨ r.p.toNat < 1 ∨ 1023 < r.p.toNat ∨ r.q.toNat < 1 ∨
      r.p.toNat ≤ r.q.toNat ∨ r.dp.toNat < 1 ∨ 8 < r.dp.toNat ∨ r.dr.toNat < 1 ∨ 8 < r.dr.toNat) (s : State) :
    takePanelSet r s = (s, replyFor (.panelSet r) .badValue []) := by
  unfold takePanelSet
  rcases bad with beyond | bad
  · rw [stationOf_none beyond]
  · have fails : ¬ PanelRecOk r = true := by
      rw [panelRecOk_iff]
      rintro ⟨mask, ranges⟩
      rcases bad with empty | bad
      · exact mask empty
      · omega
    split
    · rfl
    · exact if_neg fails

/-- R188: the lanes of a mask. -/
theorem has_laneMaskOf (mask : Half) (l : LaneId) : LaneSet.has (laneMaskOf mask) l = mask.getLsbD l.val := by
  simp only [LaneSet.has, laneMaskOf, BitVec.getLsbD_extractLsb', l.isLt, decide_true, Bool.true_and, Nat.zero_add]

/-- R29: the values stored. -/
theorem setPanels_channel (k : StationId) (r : PanelRec) (sc : Scanner) (c : PanelId) :
    (sc.setPanels k r).channels[c] =
      if c.val / 9 = k.val ∧ r.laneMask.getLsbD (c.val % 9) = true then
        { sc.channels[c] with p := r.p.toNat, q := r.q.toNat, dp := r.dp.toNat, dr := r.dr.toNat }
      else sc.channels[c] := by
  obtain ⟨j, m, rfl⟩ := exists_panelOf c
  have station : (panelOf j m).val / 9 = j.val := congrArg Fin.val (stationOfPanel_panelOf j m)
  have lane : (panelOf j m).val % 9 = m.val := congrArg Fin.val (laneOfPanel_panelOf j m)
  have worked := getElem_changeLanes_all k (fun l _ => LaneSet.has (laneMaskOf r.laneMask) l)
    (fun _ ch => { ch with p := r.p.toNat, q := r.q.toNat, dp := r.dp.toNat, dr := r.dr.toNat }) sc.channels j m
  refine worked.trans (if_congr (and_congr ?_ ?_) rfl rfl)
  · rw [station, Fin.ext_iff]
  · rw [lane, has_laneMaskOf]

/-! ### CALIBRATE (R30) -/

theorem takeCalibrate_playing {b : Byte} {k : StationId} {s : State} (named : b.toNat = k.val)
    (playing : (s.station k).state = .playing) :
    takeCalibrate b s = (s, replyFor (.calibrate b) .state []) := by
  simp only [takeCalibrate, stationOf_some named, State.playing, playing, decide_true, if_true]

theorem takeCalibrate_idle {b : Byte} {k : StationId} {s : State} (named : b.toNat = k.val)
    (idle : (s.station k).state ≠ .playing) :
    takeCalibrate b s =
      if (s.scanner.groups[k]).job.isSome then (s, replyFor (.calibrate b) .busy [])
      else (s.mapScanner fun sc => sc.mapGroup k fun g => { g with job := some (sc.newJob k) },
        replyFor (.calibrate b) .pending []) := by
  simp only [takeCalibrate, stationOf_some named, State.playing, idle, decide_false, Bool.false_eq_true, if_false]

/-- R30: the lanes of a job as it starts. -/
theorem newJob_lane (sc : Scanner) (k : StationId) (l : LaneId) :
    ((sc.newJob k).lanes[l]).sum = 0 ∧
      (((sc.newJob k).lanes[l]).unsettled = true ↔
        (sc.devices[deviceOf (panelOf k l)]).presence = .absent) := by
  simp [Scanner.newJob]

/-- Settles O24: each request's taking, answered at once. -/
theorem scannerRequests : Obligations.ScannerRequests := by
  unfold Obligations.ScannerRequests
  refine ⟨fun s ready => ⟨fun period legal => ?_, fun period n500 n1000 n2000 => ?_, fun r bad => ?_,
    fun r station mask p1 p1023 q1 qp dp1 dp8 dr1 dr8 => ?_⟩,
    fun b s ready => ⟨fun beyond => ⟨?_, ?_⟩, fun k named => ⟨?_, fun playing => ?_, fun idle busy => ?_,
      fun idle free => ?_⟩⟩⟩
  · exact congrArg _ (submit_scanner rfl ready (if_pos ((scanPeriodOk_iff period).mpr legal)))
  · have illegal : ¬ scanPeriodOk period.toNat = true := by
      rw [scanPeriodOk_iff]
      rintro (h | h | h)
      · exact n500 h
      · exact n1000 h
      · exact n2000 h
    exact congrArg _ (submit_refused rfl ready (if_neg illegal))
  · exact congrArg _ (submit_refused rfl ready (takePanelSet_refused bad s))
  · have named : r.station.toNat = (⟨r.station.toNat, by omega⟩ : StationId).val := rfl
    have ok : PanelRecOk r = true :=
      (panelRecOk_iff r).mpr ⟨mask, ⟨p1, p1023⟩, ⟨q1, qp⟩, ⟨dp1, dp8⟩, ⟨dr1, dr8⟩⟩
    have taken : takePanelSet r s =
        (s.mapScanner (Scanner.setPanels ⟨r.station.toNat, by omega⟩ r), replyFor (.panelSet r) .ok []) := by
      simp only [takePanelSet, stationOf_some named, ok, if_true]
    exact ⟨_, congrArg _ (submit_scanner rfl ready taken), setPanels_channel _ r s.scanner, rfl⟩
  · exact congrArg _ (submit_refused rfl ready (by simp only [takeCalibrate, stationOf_none beyond]))
  · exact congrArg _ (submit_refused rfl ready (by simp only [takePanelRead, stationOf_none beyond]))
  · exact congrArg _ (submit_refused rfl ready (by simp only [takePanelRead, stationOf_some named]))
  · exact congrArg _ (submit_refused rfl ready (takeCalibrate_playing named playing))
  · exact congrArg _ (submit_refused rfl ready
      ((takeCalibrate_idle named idle).trans (if_pos (Option.isSome_iff_ne_none.mpr busy))))
  · have taken := (takeCalibrate_idle named idle).trans (if_neg (by rw [free]; exact Bool.false_ne_true))
    exact ⟨s.scanner.newJob k, congrArg _ (submit_scanner rfl ready taken), rfl, Option.isSome_iff_ne_none,
      newJob_lane s.scanner k⟩

end Sys2Proof.Machine
end

section
/-! SUPPORT. What a round end does to the scanner (R19, R21 to R28, R31): the work on channels and devices, calibration
station by station, and the events and notices. -/

namespace Sys2Proof.Machine

theorem mem_allStations (k : StationId) : k ∈ allStations := by
  revert k
  decide

theorem mem_allDevices (d : DeviceId) : d ∈ allDevices := by
  revert d
  decide

theorem mem_allPanels (c : PanelId) : c ∈ allPanels := by
  obtain ⟨k, l, rfl⟩ := exists_panelOf c
  exact List.mem_flatMap.mpr ⟨k, mem_allStations k, List.mem_map_of_mem (mem_allLanes l)⟩

/-- The members of lists joined by key, of one key alone. -/
theorem filter_flatMap_key {κ α : Type} {keys : List κ} {lists : κ → List α} {test : α → Bool} {k : κ}
    (nodup : keys.Nodup) (mem : k ∈ keys) (own : ∀ x ∈ lists k, test x = true)
    (others : ∀ j, j ≠ k → ∀ x ∈ lists j, test x = false) : (keys.flatMap lists).filter test = lists k := by
  have nothing : ∀ rest : List κ, k ∉ rest → (rest.flatMap lists).filter test = [] := by
    intro rest absent
    refine List.filter_eq_nil_iff.mpr fun x inRest => ?_
    obtain ⟨j, memJ, memX⟩ := List.mem_flatMap.mp inRest
    rw [others j (fun same => absent (same ▸ memJ)) x memX]
    exact Bool.false_ne_true
  induction keys with
  | nil => cases mem
  | cons j rest ih =>
    obtain ⟨fresh, nodup⟩ := List.nodup_cons.mp nodup
    rw [List.flatMap_cons, List.filter_append]
    by_cases here : k = j
    · subst here
      rw [nothing rest fresh, List.append_nil, List.filter_eq_self.mpr own]
    · have none : (lists j).filter test = [] :=
        List.filter_eq_nil_iff.mpr fun x memX => by
          rw [others j (Ne.symm here) x memX]
          exact Bool.false_ne_true
      rw [none, List.nil_append, ih nodup ((List.mem_cons.mp mem).resolve_left here)]

/-! ### What the round leaves of a channel's settings (R24, R25, R29) -/

/-- The values of a channel that only requests and calibration change. -/
def Channel.settings (c : Channel) : Nat × Nat × Nat × Nat × Nat := (c.baseline, c.p, c.q, c.dp, c.dr)

theorem takeLevel_settings (stamp : Int) (c : Channel) : (c.takeLevel stamp).1.settings = c.settings := by
  unfold Channel.takeLevel
  repeat' split
  all_goals rfl

theorem stuckCheck_settings (stamp : Int) (r : Channel × Option ChannelEvent) :
    (Channel.stuckCheck stamp r).1.settings = r.1.settings := by
  unfold Channel.stuckCheck
  split <;> rfl

theorem roundEnd_settings (stuckFirst : Bool) (stamp : Int) (turn : DeviceTurn) (reading : Nat) (c : Channel) :
    (c.roundEnd stuckFirst stamp turn reading).1.settings = c.settings := by
  cases turn with
  | reads => exact (stuckCheck_settings _ _).trans (takeLevel_settings _ _)
  | misses => exact stuckCheck_settings _ _
  | lost =>
    unfold Channel.roundEnd
    simp only
    split
    · exact stuckCheck_settings stamp (c, none)
    · rfl
  | away => rfl
  | returns => rfl

/-! ### Calibration (R31) -/

/-- Two scanners agree on the calibration record and the channels of station k. -/
def Scanner.SameAt (k : StationId) (a b : Scanner) : Prop :=
  a.groups[k] = b.groups[k] ∧ ∀ l, a.channels[panelOf k l] = b.channels[panelOf k l]

/-- Two scanners agree on everything but the calibration records and the channels. -/
def Scanner.SameRound (a b : Scanner) : Prop := b = { a with groups := b.groups, channels := b.channels }

theorem Scanner.SameRound.trans {a b c : Scanner} (h : a.SameRound b) (g : b.SameRound c) : a.SameRound c := by
  unfold Scanner.SameRound at h g ⊢
  rw [g, h]

theorem mapGroup_group (j k : StationId) (f : PanelGroup → PanelGroup) (sc : Scanner) :
    (sc.mapGroup k f).groups[j] = if j = k then f sc.groups[k] else sc.groups[j] := getElem_set_fin _ _ _ _

/-- R31: the baseline of a lane at the end of a job. -/
def Channel.calibrated (a : LaneSum) (c : Channel) : Channel :=
  if a.settled c.q then { c with baseline := a.sum / 64 } else c

theorem setBaselines_groups (sc : Scanner) (k : StationId) (job : CalJob) :
    (sc.setBaselines k job).groups = sc.groups := rfl

theorem setBaselines_channels (sc : Scanner) (k : StationId) (job : CalJob) :
    (sc.setBaselines k job).channels =
      changeLanes k (fun l c => (job.lanes[l]).settled c.q) (fun l c => { c with baseline := (job.lanes[l]).sum / 64 })
        allLanes sc.channels := by
  simp only [Scanner.setBaselines, changeLanes]

/-- R31: the settled lanes of the station take their new baselines. -/
theorem setBaselines_channel (sc : Scanner) (j k : StationId) (l : LaneId) (job : CalJob) :
    (sc.setBaselines k job).channels[panelOf j l] =
      if j = k then Channel.calibrated job.lanes[l] sc.channels[panelOf j l] else sc.channels[panelOf j l] := by
  simp only [setBaselines_channels, getElem_changeLanes_all, Channel.calibrated]
  by_cases here : j = k
  · simp only [here, true_and, if_true]
  · simp only [here, false_and, if_false]

theorem calibrate_none {turns sc : Scanner} {k : StationId} (none : (sc.groups[k]).job = none) (data : RoundData) :
    turns.calibrate data k sc = (sc, .none) := by
  simp only [Scanner.calibrate, none]

theorem calibrate_goesOn {turns sc : Scanner} {data : RoundData} {k : StationId} {j : CalJob}
    (running : (sc.groups[k]).job = some j) (few : (turns.jobRound data k j).rounds < 64) :
    turns.calibrate data k sc =
      (sc.mapGroup k fun g => { g with job := some (turns.jobRound data k j) }, none) := by
  simp only [Scanner.calibrate, running, if_neg (Nat.not_le.mpr few)]

theorem calibrate_ends {turns sc : Scanner} {data : RoundData} {k : StationId} {j : CalJob}
    (running : (sc.groups[k]).job = some j) (enough : 64 ≤ (turns.jobRound data k j).rounds) :
    turns.calibrate data k sc =
      (let unsettled := sc.unsettledLanes k (turns.jobRound data k j)
       ((sc.setBaselines k (turns.jobRound data k j)).mapGroup k fun g =>
        { job := none, uncalibrated := if unsettled = 0 then false else g.uncalibrated, lastUnsettled := unsettled },
        some unsettled)) := by
  simp only [Scanner.calibrate, running, if_pos enough]

/-- The three things that the round can do to a station's job. -/
theorem calibrate_cases (turns sc : Scanner) (data : RoundData) (k : StationId) :
    (sc.groups[k]).job = none ∨
      ∃ j, (sc.groups[k]).job = some j ∧
        ((turns.jobRound data k j).rounds < 64 ∨ 64 ≤ (turns.jobRound data k j).rounds) := by
  cases job : (sc.groups[k]).job with
  | none => exact .inl rfl
  | some j => exact .inr ⟨j, rfl, Nat.lt_or_ge _ _⟩

/-- R31: the job of one station touches its own record and channels alone. -/
theorem calibrate_others (turns : Scanner) (data : RoundData) (k : StationId) (sc : Scanner) :
    sc.SameRound (turns.calibrate data k sc).1 ∧ ∀ j, j ≠ k → (turns.calibrate data k sc).1.SameAt j sc := by
  rcases calibrate_cases turns sc data k with none | ⟨j, running, few | enough⟩
  · rw [calibrate_none none]
    exact ⟨rfl, fun _ _ => ⟨rfl, fun _ => rfl⟩⟩
  · rw [calibrate_goesOn running few]
    exact ⟨rfl, fun i other => ⟨(mapGroup_group i k _ sc).trans (if_neg other), fun _ => rfl⟩⟩
  · rw [calibrate_ends running enough]
    exact ⟨rfl, fun i other => ⟨(mapGroup_group i k _ _).trans (if_neg other),
      fun l => (setBaselines_channel sc i k l _).trans (if_neg other)⟩⟩

theorem unsettledLanes_congr {a b : Scanner} {k : StationId} (same : a.SameAt k b) (j : CalJob) :
    a.unsettledLanes k j = b.unsettledLanes k j := by
  unfold Scanner.unsettledLanes
  congr 1
  funext l
  rw [same.2 l]

/-- R31: what becomes of a station's job rests on its own record and channels. -/
theorem calibrate_congr {a b : Scanner} {k : StationId} (same : a.SameAt k b) (turns : Scanner) (data : RoundData) :
    (turns.calibrate data k a).2 = (turns.calibrate data k b).2 ∧
      (turns.calibrate data k a).1.SameAt k (turns.calibrate data k b).1 := by
  have groups := same.1
  rcases calibrate_cases turns a data k with none | ⟨j, running, few | enough⟩
  · rw [calibrate_none none, calibrate_none (groups ▸ none)]
    exact ⟨rfl, same⟩
  · rw [calibrate_goesOn running few, calibrate_goesOn (groups ▸ running) few]
    refine ⟨rfl, ?_, same.2⟩
    rw [mapGroup_group, mapGroup_group, if_pos rfl, if_pos rfl, groups]
  · rw [calibrate_ends running enough, calibrate_ends (groups ▸ running) enough]
    simp only [unsettledLanes_congr same]
    refine ⟨trivial, ?_, fun l => ?_⟩
    · simp only [mapGroup_group, if_true, setBaselines_groups, groups]
    · refine (setBaselines_channel a k k l _).trans (.trans ?_ (setBaselines_channel b k k l _).symm)
      rw [same.2 l]

/-- R31: the jobs of some stations, each by itself. -/
theorem calibrateAll_spec (turns : Scanner) (data : RoundData) {ks : List StationId} (nodup : ks.Nodup) (sc : Scanner) :
    (turns.calibrateAll data ks sc).2 =
        (ks.flatMap fun k => (turns.calibrate data k sc).2.toList.map fun mask => (k, mask)) ∧
      sc.SameRound (turns.calibrateAll data ks sc).1 ∧
      (∀ k ∈ ks, (turns.calibrateAll data ks sc).1.SameAt k (turns.calibrate data k sc).1) ∧
      ∀ k, k ∉ ks → (turns.calibrateAll data ks sc).1.SameAt k sc := by
  induction ks generalizing sc with
  | nil => exact ⟨rfl, rfl, nofun, fun _ _ => ⟨rfl, fun _ => rfl⟩⟩
  | cons k ks ih =>
    obtain ⟨fresh, nodup⟩ := List.nodup_cons.mp nodup
    obtain ⟨round, others⟩ := calibrate_others turns data k sc
    obtain ⟨masks, rest, each, left⟩ := ih nodup (turns.calibrate data k sc).1
    have apart : ∀ j ∈ ks, j ≠ k := fun j mem same => fresh (same ▸ mem)
    have own : ∀ j ∈ ks, (turns.calibrate data j (turns.calibrate data k sc).1).2 = (turns.calibrate data j sc).2 :=
      fun j mem => (calibrate_congr (others j (apart j mem)) turns data).1
    refine ⟨?_, round.trans rest, fun j mem => ?_, fun j absent => ?_⟩
    · show _ ++ (turns.calibrateAll data ks (turns.calibrate data k sc).1).2 = _
      rw [masks, List.flatMap_cons]
      exact congrArg _ (List.flatMap_congr fun j mem => by rw [own j mem])
    · rcases List.mem_cons.mp mem with rfl | mem
      · exact left j fresh
      · obtain ⟨group, channels⟩ := each j mem
        obtain ⟨group', channels'⟩ := (calibrate_congr (others j (apart j mem)) turns data).2
        exact ⟨group.trans group', fun l => (channels l).trans (channels' l)⟩
    · obtain ⟨group, channels⟩ := left j fun mem => absent (.tail _ mem)
      obtain ⟨group', channels'⟩ := others j fun same => absent (same ▸ .head _)
      exact ⟨group.trans group', fun l => (channels l).trans (channels' l)⟩

/-! ### The scanner of a round end (R19) -/

/-- The scanner after the work on channels and devices, before calibration. -/
def Scanner.worked (sc : Scanner) (stuckFirst : Bool) (stamp : Int) (data : RoundData) : Scanner :=
  { sc with
    round := none,
    channels := Vector.ofFn fun c : PanelId => (sc.channelEnd stuckFirst stamp data c).1,
    devices := Vector.ofFn fun d : DeviceId => (sc.devices[d]).update ((data.of d).answered d) }

section
variable (sc : Scanner) (stuckFirst : Bool) (stamp : Int) (data : RoundData)

@[simp] theorem worked_channel (c : PanelId) :
    (sc.worked stuckFirst stamp data).channels[c] = (sc.channelEnd stuckFirst stamp data c).1 := by
  simp [Scanner.worked]

theorem roundEnd_scanner :
    (sc.roundEnd stuckFirst stamp data).scanner =
      (sc.calibrateAll data allStations (sc.worked stuckFirst stamp data)).1 := by
  simp [Scanner.roundEnd, Scanner.worked]

theorem roundEnd_calibrated :
    (sc.roundEnd stuckFirst stamp data).calibrated =
      (sc.calibrateAll data allStations (sc.worked stuckFirst stamp data)).2.map fun m =>
        .calibrated m.1 m.2 false stamp := by
  simp [Scanner.roundEnd, Scanner.worked]

theorem roundEnd_events :
    (sc.roundEnd stuckFirst stamp data).events =
      allPanels.filterMap fun c => (sc.channelEnd stuckFirst stamp data c).2.1.map (contactEvent c) := by
  simp [Scanner.roundEnd]

theorem roundEnd_notices :
    (sc.roundEnd stuckFirst stamp data).notices =
      (allPanels.filterMap fun c =>
        if (sc.channelEnd stuckFirst stamp data c).2.2 then
          some (.panelStuck (stationOfPanel c) (laneOfPanel c) stamp) else none) ++
      allDevices.flatMap fun d => deviceNotices stamp d (sc.turnOf data d) := by
  simp [Scanner.roundEnd]

/-- R19, R21, R22: calibration leaves the work on the devices. -/
theorem roundEnd_sameRound :
    (sc.worked stuckFirst stamp data).SameRound (sc.roundEnd stuckFirst stamp data).scanner := by
  rw [roundEnd_scanner]
  exact (calibrateAll_spec sc data (by decide) _).2.1

theorem roundEnd_sameAt (k : StationId) :
    (sc.roundEnd stuckFirst stamp data).scanner.SameAt k
      (sc.calibrate data k (sc.worked stuckFirst stamp data)).1 := by
  rw [roundEnd_scanner]
  exact (calibrateAll_spec sc data (by decide) _).2.2.1 k (mem_allStations k)

/-- R19: no round is in progress when a round has ended; the settings of rounds stand. -/
theorem roundEnd_round :
    (sc.roundEnd stuckFirst stamp data).scanner.round = none ∧
      (sc.roundEnd stuckFirst stamp data).scanner.period = sc.period ∧
      (sc.roundEnd stuckFirst stamp data).scanner.lastStart = sc.lastStart := by
  have same := roundEnd_sameRound sc stuckFirst stamp data
  unfold Scanner.SameRound at same
  rw [same]
  exact ⟨rfl, rfl, rfl⟩

/-- R21, R22: every device is updated. -/
theorem roundEnd_device (d : DeviceId) :
    (sc.roundEnd stuckFirst stamp data).scanner.devices[d] = (sc.devices[d]).update ((data.of d).answered d) := by
  have same := roundEnd_sameRound sc stuckFirst stamp data
  unfold Scanner.SameRound at same
  rw [same]
  simp [Scanner.worked]

/-- R31: the station's CALIBRATED notice, where its job ends. -/
theorem roundEnd_calibrated_station (k : StationId) :
    ((sc.roundEnd stuckFirst stamp data).calibrated.filter fun n => decide (n.station = some k)) =
      (sc.calibrate data k (sc.worked stuckFirst stamp data)).2.toList.map fun mask =>
        .calibrated k mask false stamp := by
  rw [roundEnd_calibrated, (calibrateAll_spec sc data (by decide) _).1, List.map_flatMap]
  refine (filter_flatMap_key (by decide) (mem_allStations k) ?_ ?_).trans (List.map_map ..)
  · simp [Notice.station]
  · intro j other x mem
    simp only [List.map_map, List.mem_map] at mem
    obtain ⟨mask, _, rfl⟩ := mem
    simpa [Notice.station] using other

/-! ### The events and notices of a round end (R21, R22, R26, R28) -/

theorem contactEvent_panelOf (k : StationId) (l : LaneId) :
    contactEvent (panelOf k l) = fun e => { station := k, lane := l, kind := e.1, time := e.2 } := by
  funext e
  simp only [contactEvent, stationOfPanel_panelOf, laneOfPanel_panelOf]

/-- R26: the events of a station come in lane order. -/
theorem roundEnd_events_station (k : StationId) :
    ((sc.roundEnd stuckFirst stamp data).events.filter fun e => decide (e.station = k)) =
      allLanes.filterMap fun l => (sc.channelEnd stuckFirst stamp data (panelOf k l)).2.1.map fun e =>
        { station := k, lane := l, kind := e.1, time := e.2 } := by
  have byStation : (sc.roundEnd stuckFirst stamp data).events =
      allStations.flatMap fun k => allLanes.filterMap fun l =>
        (sc.channelEnd stuckFirst stamp data (panelOf k l)).2.1.map fun e =>
          { station := k, lane := l, kind := e.1, time := e.2 } := by
    simp only [roundEnd_events, allPanels, List.filterMap_flatMap, List.filterMap_map, Function.comp_def,
      contactEvent_panelOf]
  have station : ∀ j, ∀ x ∈ (allLanes.filterMap fun l =>
      (sc.channelEnd stuckFirst stamp data (panelOf j l)).2.1.map fun e =>
        ({ station := j, lane := l, kind := e.1, time := e.2 } : ContactEvent)), x.station = j := by
    intro j x mem
    obtain ⟨l, _, some⟩ := List.mem_filterMap.mp mem
    obtain ⟨e, _, rfl⟩ := Option.map_eq_some_iff.mp some
    rfl
  rw [byStation]
  refine filter_flatMap_key (by decide) (mem_allStations k) (fun x mem => decide_eq_true (station k x mem)) ?_
  exact fun j other x mem => decide_eq_false ((station j x mem).symm ▸ other)

end

end Sys2Proof.Machine
end

section
/-! SUPPORT. A scan round at the part (R19, R20, R36): when it starts, the items that its end hands on, and what they do
to the scanner. -/

namespace Sys2Proof.Machine

/-! ### The start of a round (R19, R20) -/

/-- R20: a round starts one period after the last start, or at once where that moment is past. -/
theorem scanRoundStart_due {s : State} (idle : s.scanner.round = none) :
    exec .scanRoundStart s =
      .next { s with
        refTime := s.nextRoundTime,
        scanner := { s.scanner with
          lastStart := s.nextRoundTime, round := some { stamp := s.clock.songTime.toInt, void := false } } } := by
  have moved : max s.refTime s.nextRoundTime = s.nextRoundTime := max_eq_right (le_max_left _ _)
  simp only [exec, execScanRoundStart, idle, State.mapScanner, State.advanceTo, moved, State.now]

/-! ### Contact states set and held back (R26, log 20) -/

theorem setContact_channel (c d : PanelId) (k : Contact) (sc : Scanner) :
    (sc.setContact c k).channels[d] =
      if d = c then { sc.channels[d] with contact := k } else sc.channels[d] := by
  refine (getElem_set_fin sc.channels c d _).trans ?_
  split
  · rename_i same
    subst same
    rfl
  · rfl

/-- A scanner that differs in its channels alone. -/
def Scanner.SameBut (a b : Scanner) : Prop := b = { a with channels := b.channels }

theorem Scanner.SameBut.setContact {a b : Scanner} (h : a.SameBut b) (c : PanelId) (k : Contact) :
    a.SameBut (b.setContact c k) := by
  unfold Scanner.SameBut at h ⊢
  rw [h]
  rfl

/-- Scanners that differ in no channel are the same. -/
theorem Scanner.SameBut.eq {a b : Scanner} (h : a.SameBut b) (same : ∀ c : PanelId, b.channels[c] = a.channels[c]) :
    b = a := by
  have channels : b.channels = a.channels := Vector.ext fun i lt => same ⟨i, lt⟩
  unfold Scanner.SameBut at h
  rw [h, channels]

theorem holdBack_cons (old sc : Scanner) (e : ContactEvent) (events : List ContactEvent) :
    old.holdBack (e :: events) sc = old.holdBack events (sc.setContact e.panel (old.channels[e.panel]).contact) := rfl

theorem holdBack_sameBut (old : Scanner) (events : List ContactEvent) {a sc : Scanner} (h : a.SameBut sc) :
    a.SameBut (old.holdBack events sc) := by
  induction events generalizing sc with
  | nil => exact h
  | cons e events ih => exact ih (h.setContact _ _)

theorem holdBack_other {old sc : Scanner} {events : List ContactEvent} {c : PanelId}
    (none : ∀ e ∈ events, e.panel ≠ c) : (old.holdBack events sc).channels[c] = sc.channels[c] := by
  induction events generalizing sc with
  | nil => rfl
  | cons e events ih =>
    rw [holdBack_cons, ih fun x mem => none x (.tail _ mem), setContact_channel, if_neg (none e (.head _)).symm]

theorem holdBack_held {old sc : Scanner} {events : List ContactEvent} {c : PanelId}
    (some : ∃ e ∈ events, e.panel = c) :
    (old.holdBack events sc).channels[c] = { sc.channels[c] with contact := (old.channels[c]).contact } := by
  induction events generalizing sc with
  | nil =>
    obtain ⟨_, mem, _⟩ := some
    cases mem
  | cons e events ih =>
    rw [holdBack_cons]
    by_cases later : ∃ x ∈ events, x.panel = c
    · rw [ih later, setContact_channel]
      split <;> rfl
    · obtain ⟨x, mem, here⟩ := some
      have first : e.panel = c := by
        rcases List.mem_cons.mp mem with same | tail
        · rw [← same, here]
        · exact absurd ⟨x, tail, here⟩ later
      subst first
      rw [holdBack_other fun y mem same => later ⟨y, mem, same⟩, setContact_channel, if_pos rfl]

/-! ### What the items of a round end do to the scanner -/

/-- R26: the channel of an event is in its new contact state as the event is taken. -/
def RoundItem.onScanner : RoundItem → Scanner → Scanner
  | .contact e after, sc => sc.setContact e.panel after
  | .notice _, sc | .jobEnd _, sc => sc

/-- What items, taken one after another, do to the scanner. -/
def itemsOnScanner (items : List RoundItem) (sc : Scanner) : Scanner := items.foldl (fun sc i => i.onScanner sc) sc

theorem takeRoundItem_framed (i : RoundItem) (s : State) : Framed i.onScanner s (s.takeRoundItem i) := by
  cases i with
  | contact e after => exact (mapScanner_framed _ s).then_inner (takeContact_moves e _)
  | notice n => exact (notify_moves n s).framed
  | jobEnd n => exact (notify_moves n s).framed

theorem collectItem_framed (i : RoundItem) (s : State) :
    Framed i.onScanner s (s.collect (State.takeRoundItem i)).2 := by
  obtain ⟨shared, time, clock, scanner⟩ := takeRoundItem_framed i (s.withOutbox (some []))
  exact ⟨shared, time, clock, scanner⟩

/-- The items change the scanner alone of what `Framed` speaks of; the end events between them leave it. -/
theorem takeRoundItems_framed (items : List RoundItem) (taken : List TakenItem) (s : State) :
    Framed (itemsOnScanner items) s (s.takeRoundItems items taken) := by
  induction items generalizing taken s with
  | nil => exact (deliverRound_moves taken s).framed
  | cons i rest ih =>
    unfold State.takeRoundItems
    split <;> rename_i drawn <;> refine .after_inner (chooseIf_split_moves drawn) ?_
    · exact .after_inner ((deliverRound_moves taken _).trans (flush_moves _)) ((collectItem_framed i _).trans (ih _ _))
    · exact (collectItem_framed i _).trans (ih _ _)

/-- Items that set contact states as they are in a scanner lead to that scanner, from one in which the channels of these
items alone may still show other contact states. -/
theorem itemsOnScanner_eq {items : List RoundItem} {final sc : Scanner} (same : final.SameBut sc)
    (sets : ∀ e after, RoundItem.contact e after ∈ items → after = (final.channels[e.panel]).contact)
    (shows : ∀ c : PanelId, sc.channels[c] = final.channels[c] ∨
      (∃ e after, RoundItem.contact e after ∈ items ∧ e.panel = c) ∧
        sc.channels[c] = { final.channels[c] with contact := (sc.channels[c]).contact }) :
    itemsOnScanner items sc = final := by
  induction items generalizing sc with
  | nil =>
    refine same.eq fun c => (shows c).resolve_right ?_
    rintro ⟨⟨e, after, mem, _⟩, _⟩
    cases mem
  | cons i rest ih =>
    have tail : ∀ e after, RoundItem.contact e after ∈ rest → after = (final.channels[e.panel]).contact :=
      fun e after mem => sets e after (.tail i mem)
    cases i with
    | contact e after =>
      refine ih (same.setContact _ _) tail fun c => ?_
      show (sc.setContact e.panel after).channels[c] = _ ∨ _ ∧ (sc.setContact e.panel after).channels[c] =
        { final.channels[c] with contact := ((sc.setContact e.panel after).channels[c]).contact }
      rw [setContact_channel]
      by_cases here : c = e.panel
      · subst here
        refine .inl ?_
        rw [if_pos rfl, sets e after (.head _)]
        rcases shows e.panel with done | ⟨_, held⟩
        · rw [done]
        · rw [held]
      · rw [if_neg here]
        refine (shows c).imp_right fun ⟨⟨x, new, mem, at_⟩, held⟩ => ⟨⟨x, new, ?_, at_⟩, held⟩
        refine (List.mem_cons.mp mem).resolve_left fun eq => here ?_
        cases eq
        exact at_.symm
    | notice n =>
      exact ih same tail fun c => (shows c).imp_right fun ⟨⟨x, new, mem, at_⟩, held⟩ =>
        ⟨⟨x, new, (List.mem_cons.mp mem).resolve_left nofun, at_⟩, held⟩
    | jobEnd n =>
      exact ih same tail fun c => (shows c).imp_right fun ⟨⟨x, new, mem, at_⟩, held⟩ =>
        ⟨⟨x, new, (List.mem_cons.mp mem).resolve_left nofun, at_⟩, held⟩

/-! ### The items of a round end (R26, R31, logs 20 and 31) -/

/-- Only the fields of open choices differ (log 6). -/
def Drawn (s t : State) : Prop := t = { s with choices := t.choices, choiceCount := t.choiceCount }

theorem Drawn.trans {s t u : State} (h : Drawn s t) (g : Drawn t u) : Drawn s u := by
  unfold Drawn at h g ⊢
  rw [g, h]

theorem Drawn.scanner {s t : State} (h : Drawn s t) : t.scanner = s.scanner := by
  unfold Drawn at h
  rw [h]

theorem Drawn.moves {s t : State} (h : Drawn s t) : InnerMoves s t := by
  unfold Drawn at h
  rw [h]
  exact (InnerMove.choices s _ _).moves

theorem drawn_of_eq {s t : State} {cs : List Nat} {count : Nat}
    (h : t = { s with choices := cs, choiceCount := count }) : Drawn s t := by
  subst h
  rfl

theorem chooseIf_drawn (b : Bool) (s : State) : Drawn s (s.chooseIf b).2 := by
  rw [chooseIf_snd]
  split
  · exact drawn_of_eq (choose_snd 2 s)
  · rfl

/-- Drawing does not rest on the scanner that is shown. -/
theorem Drawn.mapScanner {s t : State} (h : Drawn s t) (f : Scanner → Scanner) :
    Drawn (s.mapScanner f) (t.mapScanner f) := by
  unfold Drawn at h ⊢
  rw [h]
  rfl

/-- A state drawn behind a change of the scanner. -/
theorem Drawn.of_mapScanner {s u : State} {f : Scanner → Scanner} (h : Drawn (s.mapScanner f) u) :
    u = { s with scanner := u.scanner, choices := u.choices, choiceCount := u.choiceCount } := by
  have scanner := h.scanner
  unfold Drawn at h
  rw [scanner]
  exact h

/-- What a round end hands on for a station, its contact work taken in a given order: CALIBRATED comes last. -/
def RoundOutcome.withJobEnd (o : RoundOutcome) (work : StationId → List RoundItem) (k : StationId) : List RoundItem :=
  work k ++ (o.calibrated.filter fun n => decide (n.station = some k)).map RoundItem.jobEnd

/-- The items of a round end in an order that the spec allows, and the order of each station's contact work in it. -/
structure RoundOutcome.Ordered (o : RoundOutcome) (work : StationId → List RoundItem) (items : List RoundItem) :
    Prop where
  perm : ∀ k, (work k).Perm (o.contactWork k).flatten
  lanes : ∀ k, (o.itemsOf k).Sublist (work k)
  all : items.Perm (allStations.flatMap (o.withJobEnd work))
  streams : ∀ k, (o.withJobEnd work k).Sublist items

/-- The items of a round end in the order that is drawn for them. -/
def RoundOutcome.order (o : RoundOutcome) (s : State) : List RoundItem × State :=
  let x := o.stationItems allStations s
  weave x.1.flatten.length x.1 x.2

theorem order_spec (o : RoundOutcome) (s : State) :
    ∃ work, o.Ordered work (o.order s).1 ∧ Drawn s (o.order s).2 := by
  obtain ⟨work, cs, count, drawn, ordered⟩ := stationItems_spec o allStations (by decide) s
  have lists : o.stationItems allStations s =
      (allStations.map (o.withJobEnd work), { s with choices := cs, choiceCount := count }) := drawn
  obtain ⟨perm, streams⟩ := weave_spec (o.stationItems allStations s).1.flatten.length (o.stationItems allStations s).1
    (o.stationItems allStations s).2 (Nat.le_refl _)
  obtain ⟨_, _, woven⟩ := weave_keeps (o.stationItems allStations s).1.flatten.length (o.stationItems allStations s).1
    (o.stationItems allStations s).2
  refine ⟨work,
    ⟨fun k => (ordered k (mem_allStations k)).1, fun k => (ordered k (mem_allStations k)).2, ?_, fun k => ?_⟩,
    (drawn_of_eq (congrArg Prod.snd lists)).trans (drawn_of_eq woven)⟩
  · have flat : (o.stationItems allStations s).1.flatten = allStations.flatMap (o.withJobEnd work) := by
      rw [lists, List.flatMap_def]
    rw [← flat]
    exact perm
  · refine streams _ ?_
    rw [lists]
    exact List.mem_map_of_mem (mem_allStations k)

/-- The scanner that the engines see as the items of a round end are taken (log 20). -/
def Scanner.shown (sc : Scanner) (heldBack : Bool) (o : RoundOutcome) : Scanner :=
  if heldBack then sc.holdBack o.events o.scanner else o.scanner

/-- Log 20: the engines see the new contact states of all events, or each as its event is taken. -/
theorem shown_cases (sc : Scanner) (heldBack : Bool) (o : RoundOutcome) :
    sc.shown heldBack o = o.scanner ∨ sc.shown heldBack o = sc.holdBack o.events o.scanner := by
  cases heldBack
  · exact .inl rfl
  · exact .inr rfl

/-- R19, logs 17 and 20: a round end with what was drawn for it: whether the stuck check comes first, and whether the
contact states are held back. -/
theorem roundEnd_eq (stamp : Int) (data : RoundData) (s : State) :
    s.roundEnd stamp data =
      (let a := s.chooseIf (s.scanner.stuckMeetsFault data)
       let o := a.2.scanner.roundEnd a.1 stamp data
       let b := a.2.chooseIf (a.2.viewMatters o.events)
       let x := o.order (b.2.mapScanner fun sc => sc.shown b.1 o)
       x.2.takeRoundItems x.1 []) := by
  simp only [State.roundEnd, RoundOutcome.order, Scanner.shown, State.mapScanner]

/-- R19, R26: a round end takes its items in some order. -/
theorem roundEnd_taken (stamp : Int) (data : RoundData) (s : State) :
    ∃ (stuckFirst heldBack : Bool) (work : StationId → List RoundItem) (items : List RoundItem) (u : State),
      let o := s.scanner.roundEnd stuckFirst stamp data
      o.Ordered work items ∧ Drawn (s.mapScanner fun sc => sc.shown heldBack o) u ∧
        s.roundEnd stamp data = u.takeRoundItems items [] := by
  have first := chooseIf_drawn (s.scanner.stuckMeetsFault data) s
  rw [roundEnd_eq]
  generalize s.chooseIf (s.scanner.stuckMeetsFault data) = a at first
  obtain ⟨stuckFirst, t⟩ := a
  have kept : t.scanner = s.scanner := first.scanner
  simp only [kept]
  generalize outcome : s.scanner.roundEnd stuckFirst stamp data = o
  have second := first.trans (chooseIf_drawn (t.viewMatters o.events) t)
  generalize t.chooseIf (t.viewMatters o.events) = b at second
  obtain ⟨heldBack, t'⟩ := b
  obtain ⟨work, ordered, drawn⟩ := order_spec o (t'.mapScanner fun sc => sc.shown heldBack o)
  generalize o.order (t'.mapScanner fun sc => sc.shown heldBack o) = x at ordered drawn
  refine ⟨stuckFirst, heldBack, work, x.1, x.2, ?_⟩
  rw [outcome]
  exact ⟨ordered, (second.mapScanner _).trans drawn, rfl⟩

/-- R26: a contact item sets the state in which the round left the channel of its event. -/
theorem mem_itemsOf {o : RoundOutcome} {k : StationId} {e : ContactEvent} {after : Contact} :
    RoundItem.contact e after ∈ o.itemsOf k ↔
      (e ∈ o.events ∧ e.station = k) ∧ after = (o.scanner.channels[e.panel]).contact := by
  simp only [RoundOutcome.itemsOf, List.mem_map, List.mem_filter, decide_eq_true_eq, RoundItem.contact.injEq]
  constructor
  · rintro ⟨x, mem, rfl, rfl⟩
    exact ⟨mem, rfl⟩
  · rintro ⟨mem, rfl⟩
    exact ⟨e, mem, rfl, rfl⟩

/-- The contact work of a station: its contact items, and its notices. -/
theorem contactWork_flatten (o : RoundOutcome) (k : StationId) :
    (o.contactWork k).flatten =
      o.itemsOf k ++ (o.notices.filter fun n => decide (n.station = some k)).map RoundItem.notice := by
  simp only [RoundOutcome.contactWork, List.flatten_cons, ← List.flatMap_def]
  exact congrArg _ List.map_eq_flatMap.symm

/-- Every contact item of a round end is the item of one of its events. -/
theorem RoundOutcome.Ordered.mem_contact {o : RoundOutcome} {work : StationId → List RoundItem} {items : List RoundItem}
    (h : o.Ordered work items) {e : ContactEvent} {after : Contact} :
    RoundItem.contact e after ∈ items ↔ e ∈ o.events ∧ after = (o.scanner.channels[e.panel]).contact := by
  rw [h.all.mem_iff, List.mem_flatMap]
  constructor
  · rintro ⟨k, _, mem⟩
    rcases List.mem_append.mp mem with mem | mem
    · rw [(h.perm k).mem_iff, contactWork_flatten, List.mem_append] at mem
      rcases mem with mem | mem
      · obtain ⟨⟨mem, _⟩, set⟩ := mem_itemsOf.mp mem
        exact ⟨mem, set⟩
      · obtain ⟨_, _, eq⟩ := List.mem_map.mp mem
        cases eq
    · obtain ⟨_, _, eq⟩ := List.mem_map.mp mem
      cases eq
  · rintro ⟨mem, set⟩
    exact ⟨e.station, mem_allStations _,
      List.mem_append_left _ ((h.lanes e.station).subset (mem_itemsOf.mpr ⟨⟨mem, rfl⟩, set⟩))⟩

/-- R19: whatever is held back meanwhile, all items together leave the scanner that the round makes. -/
theorem RoundOutcome.Ordered.onScanner {o : RoundOutcome} {work : StationId → List RoundItem} {items : List RoundItem}
    (h : o.Ordered work items) (old : Scanner) (heldBack : Bool) :
    itemsOnScanner items (old.shown heldBack o) = o.scanner := by
  have sets : ∀ e after, RoundItem.contact e after ∈ items → after = (o.scanner.channels[e.panel]).contact :=
    fun e after mem => (h.mem_contact.mp mem).2
  rcases shown_cases old heldBack o with shown | shown <;> rw [shown]
  · exact itemsOnScanner_eq rfl sets fun _ => .inl rfl
  · refine itemsOnScanner_eq (holdBack_sameBut old o.events rfl) sets fun c => ?_
    by_cases some : ∃ e ∈ o.events, e.panel = c
    · refine .inr ⟨?_, by rw [holdBack_held some]⟩
      obtain ⟨e, mem, here⟩ := some
      exact ⟨e, _, h.mem_contact.mpr ⟨mem, rfl⟩, here⟩
    · exact .inl (holdBack_other fun e mem here => some ⟨e, mem, here⟩)

/-! ### The end of a round (R19, R36) -/

theorem scanRoundEnd_live {data : RoundData} {s : State} {r : Round} (round : s.scanner.round = some r)
    (live : r.void = false) : exec (.scanRoundEnd data) s = .next (s.roundEnd r.stamp data).finish := by
  simp only [exec, execScanRoundEnd, round, live, Bool.false_eq_true, if_false]

theorem scanRoundEnd_void {data : RoundData} {s : State} {r : Round} (round : s.scanner.round = some r)
    (void : r.void = true) : exec (.scanRoundEnd data) s = .next (s.mapScanner Scanner.endVoid) := by
  simp only [exec, execScanRoundEnd, round, void, if_true]

/-- R19: what a round end does to the scanner, and what it leaves. -/
theorem roundEnd_framed (stamp : Int) (data : RoundData) (s : State) :
    ∃ stuckFirst, Framed (fun sc => (sc.roundEnd stuckFirst stamp data).scanner) s (s.roundEnd stamp data).finish := by
  obtain ⟨stuckFirst, heldBack, work, items, u, ordered, drawn, taken⟩ := roundEnd_taken stamp data s
  have framed := ((mapScanner_framed _ s).then_inner drawn.moves).trans
    ((takeRoundItems_framed items [] u).then_inner (finish_moves (u.takeRoundItems items [])))
  rw [← taken] at framed
  obtain ⟨shared, time, clock, scanner⟩ := framed
  exact ⟨stuckFirst, shared, time, clock, scanner.trans (ordered.onScanner s.scanner heldBack)⟩

/-- Settles O25: the start of a round, and its end by whether a system reset took it. -/
theorem scanRounds : Obligations.ScanRounds := by
  unfold Obligations.ScanRounds
  refine ⟨fun s idle => scanRoundStart_due idle, fun data s r round => ⟨fun live => ?_, fun void => ?_⟩⟩
  · obtain ⟨stuckFirst, shared, time, clock, scanner⟩ := roundEnd_framed r.stamp data s
    exact ⟨_, stuckFirst, scanRoundEnd_live round live, scanner,
      (congrArg Scanner.round scanner).trans (roundEnd_round s.scanner stuckFirst r.stamp data).1, clock, time, shared⟩
  · exact ⟨_, scanRoundEnd_void round void, rfl, rfl, rfl, rfl⟩

end Sys2Proof.Machine
end

section
/-! SUPPORT. What a round end does to a station's calibration job (R30, R31), and its notices (R21, R22, R28). -/

namespace Sys2Proof.Machine

/-! ### A running job takes the round (R30, R31) -/

theorem jobRound_skip (turns : Scanner) (data : RoundData) (k : StationId) (j : CalJob) :
    (turns.jobRound data k j).skip = false := by
  unfold Scanner.jobRound
  split
  · rfl
  · rename_i counts
    exact Bool.eq_false_iff.mpr counts

/-- R30: the round that was in progress when the job began does not count. -/
theorem jobRound_skipped {j : CalJob} (skip : j.skip = true) (turns : Scanner) (data : RoundData) (k : StationId) :
    (turns.jobRound data k j).rounds = j.rounds ∧ (turns.jobRound data k j).lanes = j.lanes := by
  rw [Scanner.jobRound, if_pos skip]
  exact ⟨rfl, rfl⟩

theorem takeRound_eq (turn : DeviceTurn) (reading : Nat) (a : LaneSum) :
    a.takeRound turn reading =
      if turn = .reads then
        { a with sum := a.sum + reading, min := min a.min reading, max := max a.max reading }
      else { a with unsettled := true } := by
  cases turn <;> rfl

/-- R31: the lanes of a job take the round. -/
theorem jobRound_counted {j : CalJob} (counts : j.skip = false) (turns : Scanner) (data : RoundData) (k : StationId) :
    (turns.jobRound data k j).rounds = j.rounds + 1 ∧ ∀ l : LaneId, (turns.jobRound data k j).lanes[l] =
      let reading := (data.of (deviceOf (panelOf k l))).reading (inputOf (panelOf k l))
      if turns.channelTurn data (panelOf k l) = .reads then
        { j.lanes[l] with
          sum := (j.lanes[l]).sum + reading, min := min (j.lanes[l]).min reading,
          max := max (j.lanes[l]).max reading }
      else { j.lanes[l] with unsettled := true } := by
  rw [Scanner.jobRound, if_neg (Bool.eq_false_iff.mp counts)]
  refine ⟨rfl, fun l => ?_⟩
  rw [← takeRound_eq]
  simp

/-! ### What the round makes of a station's job (R31) -/

theorem mapGroup_channels (k : StationId) (f : PanelGroup → PanelGroup) (sc : Scanner) :
    (sc.mapGroup k f).channels = sc.channels := rfl

/-- R31: calibration changes no more of a channel than its baseline. -/
theorem calibrate_channel (turns : Scanner) (data : RoundData) (k : StationId) (sc : Scanner) (l : LaneId) :
    (turns.calibrate data k sc).1.channels[panelOf k l] =
      { sc.channels[panelOf k l] with
        baseline := ((turns.calibrate data k sc).1.channels[panelOf k l]).baseline } := by
  rcases calibrate_cases turns sc data k with none | ⟨j, running, few | enough⟩
  · rw [calibrate_none none]
  · rw [calibrate_goesOn running few]
    rfl
  · rw [calibrate_ends running enough]
    simp only [mapGroup_channels, setBaselines_channel, if_true, Channel.calibrated]
    split <;> rfl

/-- R31: which lanes are unsettled at the end of a job. -/
theorem getLsbD_unsettledLanes (sc : Scanner) (k : StationId) (j : CalJob) (l : LaneId) :
    (sc.unsettledLanes k j).getLsbD l.val = true ↔
      (j.lanes[l]).unsettled = true ∨ (sc.channels[panelOf k l]).q < (j.lanes[l]).max - (j.lanes[l]).min := by
  rw [Scanner.unsettledLanes, getLsbD_laneSetOf, LaneSum.settled]
  simp only [Bool.not_and, Bool.not_not, Bool.or_eq_true, Bool.not_eq_true', decide_eq_false_iff_not, Nat.not_le]

/-- R31: the baseline of a channel at the end of a job. -/
theorem setBaselines_baseline (sc : Scanner) (k : StationId) (j : CalJob) (l : LaneId) :
    ((sc.setBaselines k j).channels[panelOf k l]).baseline =
      if (sc.unsettledLanes k j).getLsbD l.val then (sc.channels[panelOf k l]).baseline
      else (j.lanes[l]).sum / 64 := by
  rw [setBaselines_channel, if_pos rfl, Scanner.unsettledLanes, getLsbD_laneSetOf, Channel.calibrated]
  cases (j.lanes[l]).settled (sc.channels[panelOf k l]).q <;> rfl

section
variable (sc : Scanner) (stuckFirst : Bool) (stamp : Int) (data : RoundData)

theorem worked_baseline (c : PanelId) :
    ((sc.worked stuckFirst stamp data).channels[c]).baseline = (sc.channels[c]).baseline := by
  rw [worked_channel]
  exact congrArg (·.1) (roundEnd_settings stuckFirst stamp (sc.channelTurn data c) _ sc.channels[c])

theorem worked_q (c : PanelId) : ((sc.worked stuckFirst stamp data).channels[c]).q = (sc.channels[c]).q := by
  rw [worked_channel]
  exact congrArg (·.2.2.1) (roundEnd_settings stuckFirst stamp (sc.channelTurn data c) _ sc.channels[c])

/-- R19, R31: a channel after the round, its baseline apart, is as the turn of its device leaves it. -/
theorem roundEnd_channel (k : StationId) (l : LaneId) :
    (sc.roundEnd stuckFirst stamp data).scanner.channels[panelOf k l] =
      { (sc.channelEnd stuckFirst stamp data (panelOf k l)).1 with
        baseline := ((sc.roundEnd stuckFirst stamp data).scanner.channels[panelOf k l]).baseline } := by
  rw [(roundEnd_sameAt sc stuckFirst stamp data k).2 l, ← worked_channel]
  exact calibrate_channel sc data k _ l

/-- A station without a job. -/
theorem roundEnd_job_none {k : StationId} (none : (sc.groups[k]).job = none) :
    ((sc.roundEnd stuckFirst stamp data).calibrated.filter fun n => decide (n.station = some k)) = [] ∧
      (sc.roundEnd stuckFirst stamp data).scanner.groups[k] = sc.groups[k] ∧
      ∀ l, ((sc.roundEnd stuckFirst stamp data).scanner.channels[panelOf k l]).baseline =
        (sc.channels[panelOf k l]).baseline := by
  obtain ⟨group, channels⟩ := roundEnd_sameAt sc stuckFirst stamp data k
  have taken := calibrate_none (turns := sc) (sc := sc.worked stuckFirst stamp data) (k := k) none data
  rw [roundEnd_calibrated_station, group, taken]
  refine ⟨rfl, rfl, fun l => ?_⟩
  rw [channels, taken, worked_baseline]

/-- A job that goes on. -/
theorem roundEnd_job_goesOn {k : StationId} {j : CalJob} (running : (sc.groups[k]).job = some j)
    (few : (sc.jobRound data k j).rounds < 64) :
    ((sc.roundEnd stuckFirst stamp data).calibrated.filter fun n => decide (n.station = some k)) = [] ∧
      (sc.roundEnd stuckFirst stamp data).scanner.groups[k] =
        { sc.groups[k] with job := some (sc.jobRound data k j) } ∧
      ∀ l, ((sc.roundEnd stuckFirst stamp data).scanner.channels[panelOf k l]).baseline =
        (sc.channels[panelOf k l]).baseline := by
  obtain ⟨group, channels⟩ := roundEnd_sameAt sc stuckFirst stamp data k
  have taken := calibrate_goesOn (sc := sc.worked stuckFirst stamp data) running few
  rw [roundEnd_calibrated_station, group, taken]
  refine ⟨rfl, (mapGroup_group k k _ _).trans (if_pos rfl), fun l => ?_⟩
  rw [channels, taken]
  exact worked_baseline sc stuckFirst stamp data _

/-- A job that ends. -/
theorem roundEnd_job_ends {k : StationId} {j : CalJob} (running : (sc.groups[k]).job = some j)
    (enough : 64 ≤ (sc.jobRound data k j).rounds) :
    ∃ unsettled : LaneSet,
      (∀ l : LaneId, unsettled.getLsbD l.val = true ↔
        ((sc.jobRound data k j).lanes[l]).unsettled = true ∨
          (sc.channels[panelOf k l]).q <
            ((sc.jobRound data k j).lanes[l]).max - ((sc.jobRound data k j).lanes[l]).min) ∧
      ((sc.roundEnd stuckFirst stamp data).calibrated.filter fun n => decide (n.station = some k)) =
        [.calibrated k unsettled false stamp] ∧
      (sc.roundEnd stuckFirst stamp data).scanner.groups[k] =
        { job := none, lastUnsettled := unsettled,
          uncalibrated := if unsettled = 0 then false else (sc.groups[k]).uncalibrated } ∧
      ∀ l : LaneId, ((sc.roundEnd stuckFirst stamp data).scanner.channels[panelOf k l]).baseline =
        if unsettled.getLsbD l.val then (sc.channels[panelOf k l]).baseline
        else ((sc.jobRound data k j).lanes[l]).sum / 64 := by
  obtain ⟨group, channels⟩ := roundEnd_sameAt sc stuckFirst stamp data k
  have taken := calibrate_ends (sc := sc.worked stuckFirst stamp data) running enough
  refine ⟨(sc.worked stuckFirst stamp data).unsettledLanes k (sc.jobRound data k j), fun l => ?_, ?_, ?_, fun l => ?_⟩
  · rw [getLsbD_unsettledLanes, worked_q]
  · rw [roundEnd_calibrated_station, taken]
    rfl
  · rw [group, taken]
    exact (mapGroup_group k k _ _).trans (if_pos rfl)
  · rw [channels, taken, mapGroup_channels, setBaselines_baseline, worked_baseline]

/-! ### The notices of a round end (R21, R22, R28) -/

/-- R21, R22: the lanes of a station on a device. -/
theorem eq_lanesOn_iff {lanes : LaneSet} {k : StationId} {d : DeviceId} :
    lanes = lanesOn k d ↔ ∀ l : LaneId, lanes.getLsbD l.val = true ↔ (k.val * 9 + l.val) / 8 = d.val := by
  have on : ∀ l : LaneId, (lanesOn k d).getLsbD l.val = true ↔ (k.val * 9 + l.val) / 8 = d.val := fun l => by
    rw [lanesOn, getLsbD_laneSetOf, decide_eq_true_eq, Fin.ext_iff]
    rfl
  constructor
  · rintro rfl
    exact on
  · exact fun same => BitVec.eq_of_getLsbD_eq fun i lt =>
      Bool.eq_iff_iff.mpr ((same ⟨i, lt⟩).trans (on ⟨i, lt⟩).symm)

theorem mem_deviceNotices {d : DeviceId} {turn : DeviceTurn} {n : Notice} :
    n ∈ deviceNotices stamp d turn ↔ ∃ k, lanesOn k d ≠ 0 ∧
      ((turn = .lost ∧ n = .panelFault k d (lanesOn k d) stamp) ∨
        (turn = .returns ∧ n = .panelOk k d (lanesOn k d) stamp)) := by
  have mem : ∀ k, k ∈ (allStations.filter fun k => decide (lanesOn k d ≠ 0)) ↔ lanesOn k d ≠ 0 := fun k => by
    rw [List.mem_filter, decide_eq_true_eq]
    exact and_iff_right (mem_allStations k)
  unfold deviceNotices
  cases turn <;> simp only [List.mem_map, mem, List.not_mem_nil, reduceCtorEq, false_and, true_and, or_false, false_or,
    and_false, exists_false, eq_comm (b := n)]

theorem mem_roundEnd_notices {n : Notice} :
    n ∈ (sc.roundEnd stuckFirst stamp data).notices ↔
      (∃ k l, (sc.channelEnd stuckFirst stamp data (panelOf k l)).2.2 = true ∧ n = .panelStuck k l stamp) ∨
      ∃ d, n ∈ deviceNotices stamp d (sc.turnOf data d) := by
  rw [roundEnd_notices, List.mem_append, List.mem_filterMap, List.mem_flatMap]
  refine or_congr ⟨?_, ?_⟩ (exists_congr fun d => and_iff_right (mem_allDevices d))
  · rintro ⟨c, _, some⟩
    obtain ⟨k, l, rfl⟩ := exists_panelOf c
    rw [Option.ite_none_right_eq_some, stationOfPanel_panelOf, laneOfPanel_panelOf] at some
    exact ⟨k, l, some.1, (Option.some.inj some.2).symm⟩
  · rintro ⟨k, l, stuck, rfl⟩
    refine ⟨panelOf k l, mem_allPanels _, ?_⟩
    rw [if_pos stuck, stationOfPanel_panelOf, laneOfPanel_panelOf]

theorem nodup_deviceNotices (d : DeviceId) (turn : DeviceTurn) : (deviceNotices stamp d turn).Nodup := by
  have nodup : (allStations.filter fun k => decide (lanesOn k d ≠ 0)).Nodup := List.Nodup.filter _ (by decide)
  unfold deviceNotices
  cases turn with
  | lost => exact nodup.map fun _ _ same => by cases same; rfl
  | returns => exact nodup.map fun _ _ same => by cases same; rfl
  | reads | misses | away => exact .nil

/-- The device that a notice of a device's turn names. -/
def Notice.device : Notice → Option DeviceId
  | .panelFault _ d _ _ | .panelOk _ d _ _ => some d
  | _ => none

theorem deviceNotices_device {d : DeviceId} {turn : DeviceTurn} {n : Notice} (mem : n ∈ deviceNotices stamp d turn) :
    n.device = some d := by
  obtain ⟨k, _, ⟨_, rfl⟩ | ⟨_, rfl⟩⟩ := (mem_deviceNotices stamp).mp mem <;> rfl

/-- No notice comes twice. -/
theorem nodup_roundEnd_notices : (sc.roundEnd stuckFirst stamp data).notices.Nodup := by
  rw [roundEnd_notices]
  refine List.Nodup.append ?_ (List.nodup_flatMap.mpr ⟨fun d _ => nodup_deviceNotices stamp d _, ?_⟩) ?_
  · refine List.Nodup.filterMap (fun c c' n some some' => ?_) (by decide)
    obtain ⟨k, l, rfl⟩ := exists_panelOf c
    obtain ⟨k', l', rfl⟩ := exists_panelOf c'
    simp only [Option.mem_def, Option.ite_none_right_eq_some, stationOfPanel_panelOf, laneOfPanel_panelOf,
      Option.some.injEq] at some some'
    have same := some.2.trans some'.2.symm
    cases same
    rfl
  · have apart : allDevices.Pairwise (· ≠ ·) := by decide
    exact apart.imp fun other n mem mem' =>
      other (Option.some.inj ((deviceNotices_device stamp mem).symm.trans (deviceNotices_device stamp mem')))
  · intro n mem mem'
    obtain ⟨c, _, some⟩ := List.mem_filterMap.mp mem
    obtain ⟨d, _, mem'⟩ := List.mem_flatMap.mp mem'
    obtain ⟨_, stuck⟩ := Option.ite_none_right_eq_some.mp some
    cases stuck
    cases deviceNotices_device stamp mem'

end

end Sys2Proof.Machine
end

section
/-! SUPPORT. The items of a round end and their posts in the statement's words (R26, R180, logs 6, 20, 31 and 33). -/

namespace Sys2Proof.Machine

/-! ### The notices and the jobs of one round end -/

/-- R21, R22, R28: the notices of the contact work. -/
theorem roundEnd_notices_iff (sc : Scanner) (stuckFirst : Bool) (stamp : Int) (data : RoundData) (n : Notice) :
    n ∈ (sc.roundEnd stuckFirst stamp data).notices ↔
      (∃ k l, (sc.channelEnd stuckFirst stamp data (panelOf k l)).2.2 = true ∧ n = .panelStuck k l stamp) ∨
      (∃ (k : StationId) (d : DeviceId) (lanes : LaneSet), lanes ≠ 0 ∧
        (∀ l : LaneId, lanes.getLsbD l.val = true ↔ (k.val * 9 + l.val) / 8 = d.val) ∧
        ((sc.turnOf data d = .lost ∧ n = .panelFault k d lanes stamp) ∨
          (sc.turnOf data d = .returns ∧ n = .panelOk k d lanes stamp))) := by
  simp only [mem_roundEnd_notices, mem_deviceNotices, ← eq_lanesOn_iff]
  refine or_congr_right ⟨?_, ?_⟩
  · rintro ⟨d, k, some, h⟩
    exact ⟨k, d, _, some, rfl, h⟩
  · rintro ⟨k, d, _, some, rfl, h⟩
    exact ⟨d, k, some, h⟩

/-- R31: a job that runs: what it counts of the round, and whether it ends. -/
theorem roundEnd_job_running (sc : Scanner) (stuckFirst : Bool) (stamp : Int) (data : RoundData) {k : StationId}
    {j : CalJob} (running : (sc.groups[k]).job = some j) :
    let o := sc.roundEnd stuckFirst stamp data
    let ended := o.calibrated.filter fun n => decide (n.station = some k)
    ∃ a : CalJob, a.skip = false ∧
      (j.skip = true → a.rounds = j.rounds ∧ a.lanes = j.lanes) ∧
      (j.skip = false → a.rounds = j.rounds + 1 ∧ ∀ l : LaneId, a.lanes[l] =
        let reading := (data.of (deviceOf (panelOf k l))).reading (inputOf (panelOf k l))
        if sc.channelTurn data (panelOf k l) = .reads then
          { j.lanes[l] with
            sum := (j.lanes[l]).sum + reading, min := min (j.lanes[l]).min reading,
            max := max (j.lanes[l]).max reading }
        else { j.lanes[l] with unsettled := true }) ∧
      (a.rounds < 64 →
        ended = [] ∧ o.scanner.groups[k] = { (sc.groups[k]) with job := some a } ∧
          ∀ l, (o.scanner.channels[panelOf k l]).baseline = (sc.channels[panelOf k l]).baseline) ∧
      (64 ≤ a.rounds → ∃ unsettled : LaneSet,
        (∀ l : LaneId, unsettled.getLsbD l.val = true ↔
          (a.lanes[l]).unsettled = true ∨ (sc.channels[panelOf k l]).q < (a.lanes[l]).max - (a.lanes[l]).min) ∧
        ended = [.calibrated k unsettled false stamp] ∧
        o.scanner.groups[k] =
          { job := none, lastUnsettled := unsettled,
            uncalibrated := if unsettled = 0 then false else (sc.groups[k]).uncalibrated } ∧
        ∀ l : LaneId, (o.scanner.channels[panelOf k l]).baseline =
          if unsettled.getLsbD l.val then (sc.channels[panelOf k l]).baseline else (a.lanes[l]).sum / 64) :=
  ⟨sc.jobRound data k j, jobRound_skip sc data k j, fun skip => jobRound_skipped skip sc data k,
    fun counts => jobRound_counted counts sc data k, roundEnd_job_goesOn sc stuckFirst stamp data running,
    roundEnd_job_ends sc stuckFirst stamp data running⟩

/-! ### The items taken one after another (R26, log 6) -/

theorem takeRoundItems_cons (i : RoundItem) (rest : List RoundItem) (taken : List TakenItem) (s : State) :
    s.takeRoundItems (i :: rest) taken =
      (let d := s.chooseIf (!s.song.ends.isEmpty)
       if d.1 then
         let x := (d.2.deliverRound taken).flush.collect (State.takeRoundItem i)
         x.2.takeRoundItems rest [(i, x.1)]
       else
         let x := d.2.collect (State.takeRoundItem i)
         x.2.takeRoundItems rest (taken ++ [(i, x.1)])) := by
  conv => lhs; unfold State.takeRoundItems
  split <;> rename_i drawn <;> simp only [drawn, Bool.false_eq_true, if_true, if_false]

/-- With no end event on its way the next item is taken. -/
theorem takeRoundItems_quiet {s : State} (quiet : s.song.ends = []) (i : RoundItem) (rest : List RoundItem)
    (taken : List TakenItem) :
    s.takeRoundItems (i :: rest) taken =
      (let x := s.collect (State.takeRoundItem i)
       x.2.takeRoundItems rest (taken ++ [(i, x.1)])) := by
  have stays : s.chooseIf (!s.song.ends.isEmpty) = (false, s) := by rw [quiet]; rfl
  rw [takeRoundItems_cons, stays]
  rfl

/-- Before an item the end events on their way may be taken. -/
theorem takeRoundItems_ends (i : RoundItem) (rest : List RoundItem) (taken : List TakenItem) (s : State) :
    ∃ u, Drawn s u ∧
      (s.takeRoundItems (i :: rest) taken =
          (let x := u.collect (State.takeRoundItem i)
           x.2.takeRoundItems rest (taken ++ [(i, x.1)])) ∨
        s.takeRoundItems (i :: rest) taken =
          (let x := (u.deliverRound taken).flush.collect (State.takeRoundItem i)
           x.2.takeRoundItems rest [(i, x.1)])) := by
  refine ⟨_, chooseIf_drawn (!s.song.ends.isEmpty) s, ?_⟩
  rw [takeRoundItems_cons]
  by_cases early : (s.chooseIf (!s.song.ends.isEmpty)).1 = true
  · exact .inr (if_pos early)
  · exact .inl (if_neg early)

/-! ### The posts of a round end (R180, logs 31 and 33) -/

/-- R180: what the items of a round end posted arrives in some interleaving of its streams. -/
theorem deliverRound_spec (taken : List TakenItem) (s : State) :
    ∃ (mixed : StationId → List Post) (posts : List Post) (u : State),
      (∀ k, (mixed k).Perm ((enginePosts k taken).filter Post.isReport ++ (noticePosts k taken).flatten) ∧
        ((enginePosts k taken).filter Post.isReport).Sublist (mixed k)) ∧
      (let streams := allStations.flatMap fun k =>
        (mixed k ++ jobEndPosts k taken) :: triggerStreams (enginePosts k taken)
       posts.Perm streams.flatten ∧ ∀ l ∈ streams, l.Sublist posts) ∧
      Drawn s u ∧ s.deliverRound taken = posts.foldl (fun t p => t.takePost p) u := by
  obtain ⟨mixed, cs, count, streams, spec⟩ := roundStreams_spec taken allStations (by decide) s
  obtain ⟨posts, cs', count', perm, each, delivered⟩ := deliver_spec
    (roundStreams taken allStations s).1 (roundStreams taken allStations s).2
  rw [streams] at perm each
  have drawn : Drawn s (roundStreams taken allStations s).2 := drawn_of_eq (congrArg Prod.snd streams)
  exact ⟨mixed, posts, _, fun k => spec k (mem_allStations k), ⟨perm, each⟩, drawn.trans (drawn_of_eq rfl), delivered⟩

/-- Settles O26: `roundEnd_notices_iff`, `roundEnd_channel` and the jobs for the scanner, `roundEnd_taken` for the items,
`takeRoundItems_quiet` and `takeRoundItems_ends` for their taking, and `deliverRound_spec` for their posts. -/
theorem roundEndOfEveryChannelAndDevice : Obligations.RoundEndOfEveryChannelAndDevice := by
  unfold Obligations.RoundEndOfEveryChannelAndDevice
  refine ⟨fun sc stuckFirst stamp data => ?_, fun data s r round live => ?_, fun s n e after => ⟨rfl, rfl, rfl⟩,
    fun i rest taken s => ⟨rfl, fun quiet => takeRoundItems_quiet quiet i rest taken,
      fun _ => takeRoundItems_ends i rest taken s⟩, deliverRound_spec, fun old sc events c => ?_⟩
  · obtain ⟨ended, period, lastStart⟩ := roundEnd_round sc stuckFirst stamp data
    refine ⟨ended, period, lastStart, roundEnd_device sc stuckFirst stamp data,
      roundEnd_channel sc stuckFirst stamp data, roundEnd_events_station sc stuckFirst stamp data,
      nodup_roundEnd_notices sc stuckFirst stamp data, roundEnd_notices_iff sc stuckFirst stamp data,
      fun k => ⟨roundEnd_job_none sc stuckFirst stamp data,
        fun j running => roundEnd_job_running sc stuckFirst stamp data running⟩⟩
  · obtain ⟨stuckFirst, heldBack, work, items, u, ordered, drawn, taken⟩ := roundEnd_taken r.stamp data s
    refine ⟨stuckFirst, work, items, u, fun k => ⟨?_, ordered.lanes k⟩, ordered.all, ordered.streams, ?_, ?_, ?_⟩
    · exact (ordered.perm k).trans (.of_eq (contactWork_flatten _ k))
    · rw [drawn.scanner]
      exact shown_cases s.scanner heldBack _
    · exact drawn.of_mapScanner
    · rw [scanRoundEnd_live round live, taken]
  · exact ⟨holdBack_sameBut old events rfl, holdBack_held, holdBack_other⟩

end Sys2Proof.Machine
end

section
/-! SUPPORT. The bytes of the replies that read and of the reports (11.3, 11.6 to 11.9): flag bytes, records of one size
one after another, and each layout in the statement's words. -/

namespace Sys2Proof.Machine

/-! ### Fields of one byte -/

/-- The value of a flag in its byte. -/
def flagBit (b : Bool) (bit : Nat) : Nat := if b then 2 ^ bit else 0

theorem flagBit_eq (b : Bool) (bit : Nat) : flagBit b bit = b.toNat * 2 ^ bit := by
  cases b <;> simp [flagBit]

/-- A flag byte adds up its flags, bit 0 first. -/
theorem flagByte_eq_sum (bits : List Bool) :
    flagByte bits = BitVec.ofNat 8 ((bits.zipIdx.map fun x => flagBit x.1 x.2).sum) := by
  have shifted : ∀ (bits : List Bool) (n : Nat),
      ((bits.zipIdx n).map fun x => flagBit x.1 x.2).sum = 2 ^ n * bits.foldr (fun b acc => b.toNat + 2 * acc) 0 := by
    intro bits
    induction bits with
    | nil => intro n; rfl
    | cons b bits ih =>
      intro n
      rw [List.zipIdx_cons, List.map_cons, List.sum_cons, ih, flagBit_eq, List.foldr_cons]
      ring
  rw [shifted bits 0, pow_zero, one_mul]
  rfl

/-- Log 37: a flag with a byte of its own is sent as 1 where it is set. -/
theorem flagByte_one (a : Bool) : [flagByte [a]] = num8 (flagBit a 0) := by
  rw [flagByte_eq_sum]
  rfl

theorem flagByte_two (a b : Bool) : [flagByte [a, b]] = num8 (flagBit a 0 + flagBit b 1) := by
  rw [flagByte_eq_sum]
  rfl

theorem flagByte_three (a b c : Bool) : [flagByte [a, b, c]] = num8 (flagBit a 0 + flagBit b 1 + flagBit c 2) := by
  rw [flagByte_eq_sum, Nat.add_assoc]
  rfl

theorem flagByte_eight (a b c d e f g h : Bool) :
    [flagByte [a, b, c, d, e, f, g, h]] =
      num8 (flagBit a 0 + flagBit b 1 + flagBit c 2 + flagBit d 3 + flagBit e 4 + flagBit f 5 + flagBit g 6 +
        flagBit h 7) := by
  rw [flagByte_eq_sum]
  simp only [List.zipIdx_cons, List.zipIdx_nil, List.map_cons, List.map_nil, List.sum_cons, List.sum_nil, Nat.add_zero,
    Nat.zero_add, Nat.reduceAdd, Nat.add_assoc, num8]

/-- 11.3: a condition set as sent. -/
theorem abortSet_byte (a : AbortSet) :
    [a.byte] = num8 (flagBit a.now 0 + flagBit a.atMeasure 1 + flagBit a.onFail 2 + flagBit a.atMeasureN 3) := by
  simp only [AbortSet.byte, num8, flagBit_eq]
  congr 2
  omega

/-- A station mask as sent. -/
theorem stations8_eq (m : StationSet) : stations8 m = num8 m.toNat := by
  simp only [stations8, num8, BitVec.zeroExtend, BitVec.ofNat_toNat]

/-- 11.6: an index, or 0xFF for none. -/
theorem orNone_eq (o : Option Nat) : orNone o = num8 (o.elim 255 id) := by
  cases o <;> rfl

/-! ### Records of one size -/

/-- One of several records of one size that stand one after another. -/
theorem take_drop_records {α β : Type} {f : α → List β} {n : Nat} (size : ∀ a, (f a).length = n) (as : List α)
    (rest : List β) (i : Nat) (lt : i < as.length) : ((as.flatMap f ++ rest).drop (n * i)).take n = f as[i] := by
  induction as generalizing i with
  | nil => cases lt
  | cons a as ih =>
    rw [List.flatMap_cons, List.append_assoc]
    cases i with
    | zero => rw [Nat.mul_zero, List.drop_zero, List.take_left' (size a), List.getElem_cons_zero]
    | succ i =>
      rw [Nat.mul_succ, Nat.add_comm, ← List.drop_drop, List.drop_left' (size a), ih i (Nat.lt_of_succ_lt_succ lt),
        List.getElem_cons_succ]

/-! ### PANEL_READ (R34) -/

theorem channel_bytes_length (c : Channel) : c.bytes.length = 15 := rfl

/-- R34: what follows the lanes' records: the station's flags, its devices and the scan period. -/
def State.panelRest (s : State) (k : StationId) : List Byte :=
  let g := s.scanner.groups[k]
  num8 (flagBit g.uncalibrated 0 + flagBit g.job.isSome 1) ++ num8 (g.job.elim 0 CalJob.rounds) ++
    be16 (g.lastUnsettled.zeroExtend 16) ++ s.deviceBytes (deviceOf (panelOf k 0)) ++
    s.deviceBytes (deviceOf (panelOf k 8)) ++ num16 s.scanner.period

theorem panelBytes_eq (s : State) (k : StationId) :
    s.panelBytes k = (allLanes.flatMap fun l => (s.scanner.channels[panelOf k l]).bytes) ++ s.panelRest k := by
  simp only [State.panelBytes, State.panelRest, flagByte_two, devicesOf, List.flatMap_cons, List.flatMap_nil,
    List.append_nil, List.append_assoc, lanes16]

theorem lanes_length (s : State) (k : StationId) :
    (allLanes.flatMap fun l => (s.scanner.channels[panelOf k l]).bytes).length = 135 :=
  length_records (fun _ => channel_bytes_length _) allLanes

theorem getElem_allLanes (l : LaneId) : allLanes[l.val]'(l.isLt) = l := by
  revert l
  decide

theorem panelBytes_lane (s : State) (k : StationId) (l : LaneId) :
    ((s.panelBytes k).drop (15 * l.val)).take 15 = (s.scanner.channels[panelOf k l]).bytes := by
  rw [panelBytes_eq, take_drop_records (fun _ => channel_bytes_length _) allLanes _ l.val l.isLt, getElem_allLanes]

/-! ### STATION_STATUS (R62) -/

theorem active_eq (st : SongState) : st.active = decide (st ≠ .stopped ∧ st ≠ .finished) := by
  cases st <;> rfl

theorem windowOpen_eq : Entry.windowOpen = fun e => decide (e.state = .opened) || e.isJudged := by
  funext e
  unfold Entry.windowOpen Entry.isJudged
  cases e.state <;> rfl

theorem isHolding_eq : Entry.isHolding = fun e => decide (e.state = .holding) := by
  funext e
  unfold Entry.isHolding
  cases e.state <;> rfl

/-- R62: the common part. -/
theorem stationStatusBytes_common (s : State) (k : StationId) :
    (s.stationStatusBytes k).take 3 =
      (let st := s.station k
       num8 k.val ++ num8 st.state.code ++
        num8 (flagBit (decide (s.song.state ≠ .stopped ∧ s.song.state ≠ .finished) && s.song.armed.getLsbD k.val) 0 +
          flagBit st.endAccepted 1 + flagBit st.endPassed 2 + flagBit st.starving 3 + flagBit st.starved 4 +
          flagBit st.pushPending 5 + flagBit st.noFail 6 + flagBit (s.scanner.groups[k]).uncalibrated 7)) := by
  simp only [State.stationStatusBytes, flagByte_eight, State.armedFlag, active_eq, StationSet.has]
  rfl

/-- R62: the variant part. -/
theorem stationStatusBytes_variant (s : State) (k : StationId) :
    (s.stationStatusBytes k).drop 3 = s.stationVariant k := rfl

section
variable {s : State} {k : StationId}

theorem stationVariant_vacant (vacant : (s.station k).state = .vacant) :
    s.stationVariant k =
      BitVec.ofNat 8 (s.station k).stack.length :: allLanes.map fun l => BitVec.ofNat 8 (s.contactOf k l).code := by
  simp only [State.stationVariant, vacant]
  rfl

theorem stationVariant_loaded (loaded : (s.station k).state = .loaded) :
    s.stationVariant k =
      (let st := s.station k
       num8 st.queue.length ++ num8 (flagBit st.intake.lastTick.isSome 0) ++ num32 (st.intake.lastTick.getD 0) ++
        num8 st.stack.length ++ num8 st.laneMap.code ++ be16 (st.laneMask.zeroExtend 16)) := by
  simp only [State.stationVariant, loaded, flagByte_one, lanes16]

theorem stationVariant_playing (playing : (s.station k).state = .playing) :
    s.stationVariant k =
      (let st := s.station k
       be32 s.clock.songTime ++ num8 st.queue.length ++
        num8 (st.queue.countP fun e => decide (e.state = .opened) || e.isJudged) ++
        num8 (st.queue.countP fun e => decide (e.state = .holding)) ++ num32 st.context.combo ++
        num16 st.context.life ++ num32 st.context.displayed ++ num8 st.context.rung ++
        num8 (flagBit st.context.ext 0 + flagBit st.context.ovf 1)) := by
  simp only [State.stationVariant, playing, flagByte_two, windowOpen_eq, isHolding_eq]

theorem stationVariant_ended
    (ended : (s.station k).state = .cleared ∨ (s.station k).state = .failed ∨ (s.station k).state = .aborted) :
    s.stationVariant k =
      (let st := s.station k
       st.counts.toList.flatMap be32 ++ (num32 st.context.displayed ++ num32 st.context.maxCombo ++
        num16 st.context.life ++ num8 (flagBit st.context.ovf 0))) := by
  rcases ended with h | h | h <;> simp only [State.stationVariant, h, flagByte_one, List.append_assoc]

theorem counts_length (st : Station) : (st.counts.toList.flatMap be32).length = 60 := by
  rw [length_records length_be32, Vector.length_toList]

end

/-! ### CUE_STATUS (R169) -/

theorem cueChannelBytes_length (s : State) (c : ChannelId) : (s.cueChannelBytes c).length = 14 := by
  simp only [State.cueChannelBytes, orNone_eq]
  rfl

theorem line_bytes_eq (l : Line) :
    l.bytes = [l.base, l.current, BitVec.ofNat 8 (l.owner.elim 255 fun o => o.channel.val)] := by
  unfold Line.bytes
  cases l.owner <;> rfl

theorem getElem_allCueChannels (c : ChannelId) : allCueChannels[c.val]'(c.isLt) = c := by
  revert c
  decide

/-- R169: a channel's record. -/
theorem cueChannelsBytes_channel (s : State) (c : ChannelId) :
    (s.cueChannelsBytes.drop (14 * c.val)).take 14 = s.cueChannelBytes c := by
  have record := take_drop_records (cueChannelBytes_length s) allCueChannels [] c.val c.isLt
  rwa [List.append_nil, getElem_allCueChannels] at record

/-- R169: a channel's record, field by field. -/
theorem cueChannelBytes_eq (s : State) (c : ChannelId) :
    s.cueChannelBytes c =
      (let ch := s.cue.channels[c]
       num8 ch.state.code ++ num8 ch.config.source.code ++ num8 ch.config.mode.code ++ num8 ch.config.endAction.code ++
         num8 ch.pointer ++ num8 ((ch.config.first.val + ch.pointer) % 256) ++ num8 ch.waiting.length ++
         num8 (flagBit ch.overrun 0) ++ be16 ch.serial ++ num8 (ch.lastLine.elim 255 Fin.val) ++
         num8 (ch.running.elim 255 fun r => r.line.val) ++
         num16 (ch.running.elim 0 fun r => (r.expiry - s.refTime) / 16000)) := by
  simp only [State.cueChannelBytes, flagByte_one, orNone_eq, Option.elim_map, Function.comp_def, id]
  rfl

/-- R169: a line's record. -/
theorem cueLinesBytes_line (s : State) (n : LineId) :
    (s.cueLinesBytes.drop (3 * n.val)).take 3 = (s.cue.lines[n]).bytes := by
  have size : ∀ l : Line, l.bytes.length = 3 := fun l => by rw [line_bytes_eq]; rfl
  have record := take_drop_records size s.cue.lines.toList [] n.val (by rw [Vector.length_toList]; exact n.isLt)
  rwa [List.append_nil, Vector.getElem_toList] at record

theorem cueLinesBytes_length (s : State) : s.cueLinesBytes.length = 144 := by
  have size : ∀ l : Line, l.bytes.length = 3 := fun l => by rw [line_bytes_eq]; rfl
  rw [State.cueLinesBytes, length_records size, Vector.length_toList]

/-! ### Reports (11.9) -/

/-- A NOTICE as sent, by its station byte and its own fields. -/
theorem notice_frame {y : Notice} {station : Nat} {fields : List Byte} (byte : y.stationByte = BitVec.ofNat 8 station)
    (own : y.fields = fields) (time : Int) :
    TxFrame.bytes (.report (.notice time y)) =
      frameBytes 0xC1#8 (num8 y.code ++ num8 station ++ be32 (BitVec.ofInt 32 time) ++ fields) := by
  rw [num8, num8, ← byte, ← own]
  rfl

/-- Settles O37: each layout by its own lemma; the codes by evaluation. -/
theorem fieldsOfTheReadReplies : Obligations.FieldsOfTheReadReplies := by
  unfold Obligations.FieldsOfTheReadReplies
  refine ⟨fun s k => ⟨?_, panelBytes_lane s k, ?_⟩, fun s => ?_, fun s k => ⟨stationStatusBytes_common s k,
    stationVariant_vacant, stationVariant_loaded, stationVariant_playing, fun ended => ?_⟩, fun c => ⟨rfl, ?_⟩,
    fun s => ⟨?_, cueLinesBytes_length s, fun c => ?_, fun n => ?_⟩, fun r => ?_, fun r => ⟨rfl, rfl, ?_⟩,
    fun t time a f m k i n depth l d ls b p o c x => ?_, fun now ms since => ⟨rfl, rfl⟩⟩
  · rw [panelBytes_eq, List.length_append, lanes_length]
    rfl
  · rw [panelBytes_eq, List.drop_left' (lanes_length s k)]
    rfl
  · rw [State.songStatusBytes, abortSet_byte, stations8_eq]
    rfl
  · have variant := stationVariant_ended ended
    refine ⟨?_, ?_, ?_⟩
    · rw [stationStatusBytes_variant, variant, List.length_append, counts_length]
      rfl
    · rw [stationStatusBytes_variant, variant]
      exact List.take_left' (counts_length _)
    · rw [stationStatusBytes_variant, variant]
      exact List.drop_left' (counts_length _)
  · rw [ScoreContext.bytes, flagByte_three]
    rfl
  · exact length_records (cueChannelBytes_length s) allCueChannels
  · rw [cueChannelsBytes_channel, cueChannelBytes_eq]
    rfl
  · rw [cueLinesBytes_line, line_bytes_eq]
  · exact ⟨rfl, rfl, rfl, rfl, rfl, rfl, rfl, rfl, rfl, rfl, rfl, rfl, rfl, rfl⟩
  · rw [ResultReport.bytes, flagByte_one]
    rfl
  · have calibrated : (Notice.calibrated k ls b t).fields =
        be16 (ls.zeroExtend 16) ++ num8 (flagBit b 0) ++ be32 (BitVec.ofInt 32 t) := by
      rw [Notice.fields, flagByte_one]
      rfl
    exact ⟨notice_frame (y := .songStarted a) rfl (stations8_eq a) time, notice_frame rfl rfl time,
      notice_frame rfl rfl time, notice_frame rfl rfl time, notice_frame rfl rfl time, notice_frame rfl rfl time,
      notice_frame rfl rfl time, notice_frame rfl rfl time, notice_frame rfl rfl time, notice_frame rfl rfl time,
      notice_frame rfl rfl time, notice_frame rfl rfl time, notice_frame rfl calibrated time,
      notice_frame rfl rfl time, notice_frame rfl rfl time, notice_frame rfl rfl time, notice_frame rfl rfl time,
      notice_frame rfl rfl time, fun count => rfl⟩

end Sys2Proof.Machine
end

section
/-! SUPPORT. The requests of stations and of what reads (R38 to R41, R62, R121, R133, R148, R169): each checked, taken and
answered at once. -/

namespace Sys2Proof.Machine

/-! ### The requests that read (R62, R121, R133, R148, R169) -/

theorem takeCheckpointRead_empty {b : Byte} {k : StationId} {s : State} (named : b.toNat = k.val)
    (empty : (s.station k).stack = []) : takeCheckpointRead b s = (s, replyFor (.checkpointRead b) .stackEmpty []) := by
  simp only [takeCheckpointRead, stationOf_some named, empty]

theorem takeCheckpointRead_top {b : Byte} {k : StationId} {s : State} (named : b.toNat = k.val) {c : ScoreContext}
    {rest : List ScoreContext} (top : (s.station k).stack = c :: rest) :
    takeCheckpointRead b s =
      (s, replyFor (.checkpointRead b) .ok (BitVec.ofNat 8 (rest.length + 1) :: c.bytes)) := by
  simp only [takeCheckpointRead, stationOf_some named, top]
  rfl

theorem takeCueStatus_beyond {b : Byte} (beyond : 1 < b.toNat) (s : State) :
    takeCueStatus b s = (s, replyFor (.cueStatus b) .badValue []) := by
  unfold takeCueStatus
  split
  · omega
  · omega
  · rfl

/-- A request that changes the cue engine and nothing else, but for its reply. -/
theorem submit_cue {i : Instr} {take : State → State × Reply} {s : State} {f : CueEngine → CueEngine} {r : Reply}
    (wf : i.wf = true) (h : s.ready) (taken : take s = (s.mapCue f, r)) : s.submit i take = (s.mapCue f).replied r :=
  submit_eq wf h taken rfl rfl rfl rfl rfl

/-- Settles O36: each request's taking, answered at once. -/
theorem requestsThatRead : Obligations.RequestsThatRead := by
  unfold Obligations.RequestsThatRead
  refine fun b s ready => ⟨congrArg _ (submit_refused rfl ready rfl), fun beyond => ?_, fun k named => ?_,
    fun beyond => ?_, fun lines => ?_, fun channels => ?_⟩
  · have none := stationOf_none beyond
    refine ⟨congrArg _ (submit_refused rfl ready ?_), congrArg _ (submit_refused rfl ready ?_),
      congrArg _ (submit_refused rfl ready ?_)⟩
    · simp only [takeStationStatus, none]
    · simp only [takeTallyRead, none]
    · simp only [takeCheckpointRead, none]
  · have some := stationOf_some named
    refine ⟨congrArg _ (submit_refused rfl ready ?_), congrArg _ (submit_refused rfl ready ?_),
      fun empty => congrArg _ (submit_refused rfl ready (takeCheckpointRead_empty named empty)),
      fun c rest top => congrArg _ (submit_refused rfl ready (takeCheckpointRead_top named top))⟩
    · simp only [takeStationStatus, some]
    · simp only [takeTallyRead, some]
      rfl
  · exact congrArg _ (submit_refused rfl ready (takeCueStatus_beyond beyond s))
  · subst lines
    exact congrArg _ (submit_refused rfl ready rfl)
  · subst channels
    exact congrArg _ (submit_cue rfl ready rfl)

/-! ### STATION_SET (R38) -/

/-- A request that changes one station record and nothing else, but for its reply. -/
theorem submit_station {i : Instr} {take : State → State × Reply} {s : State} {k : StationId} {f : Station → Station}
    {r : Reply} (wf : i.wf = true) (h : s.ready) (taken : take s = (s.mapStation k f, r)) :
    s.submit i take = (s.mapStation k f).replied r :=
  submit_eq wf h taken rfl rfl rfl rfl rfl

theorem takesSettings_iff (st : Station) :
    st.takesSettings = true ↔ st.state = .vacant ∨ (st.state = .loaded ∧ st.queue = []) := by
  unfold Station.takesSettings
  cases st.state <;> simp

/-- R39: the number of a lane map reads as that map. -/
theorem laneMapOf_code {b : Byte} {map : LaneMap} (coded : b.toNat = map.code) : laneMapOf b = some map := by
  cases map <;> simp only [laneMapOf, coded, LaneMap.code]

theorem laneMapOf_none {b : Byte} (beyond : 7 < b.toNat) : laneMapOf b = none := by
  grind [laneMapOf]

theorem flagOf_some {b : Byte} (low : b.toNat ≤ 1) : flagOf b = some (decide (b = 1#8)) := by
  have : b = 0#8 ∨ b = 1#8 := by bv_omega
  rcases this with rfl | rfl <;> rfl

theorem flagOf_none {b : Byte} (beyond : 1 < b.toNat) : flagOf b = none := by
  grind [flagOf]

theorem reportLevelOf_some {b : Byte} (low : b.toNat ≤ 1) :
    reportLevelOf b = some (if b = 0#8 then .results else .silent) := by
  have : b = 0#8 ∨ b = 1#8 := by bv_omega
  rcases this with rfl | rfl <;> rfl

theorem reportLevelOf_none {b : Byte} (beyond : 1 < b.toNat) : reportLevelOf b = none := by
  grind [reportLevelOf]

/-- R38: settings that fail the third check. -/
theorem settingsOf_none {r : StationRec}
    (bad : r.laneMask.extractLsb' 0 9 = 0 ∨ 7 < r.laneMap.toNat ∨ 1 < r.noFail.toNat ∨ 1 < r.reportLevel.toNat ∨
      r.lookahead.toNat < 1 ∨ 16777216 < r.lookahead.toNat) (st : Station) : settingsOf r st = none := by
  unfold settingsOf
  split
  · rename_i map noFail level hasMap hasFlag hasLevel
    refine if_neg fun ⟨mask, low, high⟩ => ?_
    rcases bad with none | map | flag | level | short | long
    · exact mask none
    · rw [laneMapOf_none map] at hasMap
      cases hasMap
    · rw [flagOf_none flag] at hasFlag
      cases hasFlag
    · rw [reportLevelOf_none level] at hasLevel
      cases hasLevel
    · omega
    · omega
  · rfl

/-- R38: the five values of settings that pass the third check. -/
theorem settingsOf_some {r : StationRec} {map : LaneMap} (mask : r.laneMask.extractLsb' 0 9 ≠ 0)
    (coded : r.laneMap.toNat = map.code) (flag : r.noFail.toNat ≤ 1) (level : r.reportLevel.toNat ≤ 1)
    (low : 1 ≤ r.lookahead.toNat) (high : r.lookahead.toNat ≤ 16777216) (st : Station) :
    settingsOf r st = some { st with
      laneMask := r.laneMask.extractLsb' 0 9, laneMap := map, noFail := decide (r.noFail = 1#8),
      reportLevel := if r.reportLevel = 0#8 then .results else .silent, lookahead := r.lookahead.toNat } := by
  simp only [settingsOf, laneMapOf_code coded, flagOf_some flag, reportLevelOf_some level]
  exact if_pos ⟨mask, low, high⟩

/-- R38: STATION_SET to a station that takes settings, with a value that fails the third check. -/
theorem takeStationSet_bad {r : StationRec} {k : StationId} {s : State} (named : r.station.toNat = k.val)
    (takes : (s.station k).takesSettings = true) (bad : settingsOf r (s.station k) = none) :
    takeStationSet r s = (s, replyFor (.stationSet r) .badValue []) := by
  simp only [takeStationSet, stationOf_some named, takes, bad, Bool.not_true, Bool.false_eq_true, if_false]

/-- R38: STATION_SET to a station that takes settings, with five values that pass. -/
theorem takeStationSet_taken {r : StationRec} {k : StationId} {s : State} {st : Station}
    (named : r.station.toNat = k.val) (takes : (s.station k).takesSettings = true)
    (passed : settingsOf r (s.station k) = some st) :
    takeStationSet r s = (s.mapStation k fun _ => st, replyFor (.stationSet r) .ok []) := by
  simp only [takeStationSet, stationOf_some named, takes, passed, Bool.not_true, Bool.false_eq_true, if_false]

theorem takeStationSet_refused {r : StationRec} {k : StationId} {s : State} (named : r.station.toNat = k.val)
    (refuses : (s.station k).takesSettings = false) :
    takeStationSet r s = (s, replyFor (.stationSet r) .state []) := by
  simp only [takeStationSet, stationOf_some named, refuses, Bool.not_false, if_true]

/-- Settles O29: the three checks of STATION_SET, `settingsOf_some` for the five values, and the eight maps by
evaluation. -/
theorem stationSetAndLaneMaps : Obligations.StationSetAndLaneMaps := by
  unfold Obligations.StationSetAndLaneMaps
  refine ⟨fun r s ready => ⟨fun beyond => congrArg _ (submit_refused rfl ready ?_), fun k named =>
    ⟨fun closed => congrArg _ (submit_refused rfl ready ?_), fun takes => ⟨fun bad => ?_, ?_⟩⟩⟩, by decide⟩
  · simp only [takeStationSet, stationOf_none beyond]
  · refine takeStationSet_refused named (Bool.not_eq_true _ ▸ mt (takesSettings_iff _).mp ?_)
    rintro (vacant | ⟨loaded, empty⟩)
    · simp [vacant] at closed
    · simp [loaded, empty] at closed
  · exact congrArg _ (submit_refused rfl ready
      (takeStationSet_bad named ((takesSettings_iff _).mpr takes) (settingsOf_none bad _)))
  · intro map mask coded flag level low high
    have taken := takeStationSet_taken named ((takesSettings_iff _).mpr takes)
      (settingsOf_some mask coded flag level low high (s.station k))
    exact congrArg _ (submit_station rfl ready (taken.trans (congrArg (·, _) (State.mapStation_congr s rfl))))

end Sys2Proof.Machine
end

section
/-! SUPPORT. The checks of a chart record (R47): what its own fields and the tempo map decide, and what the station's
intake record decides, test by test. -/

namespace Sys2Proof.Machine

/-! ### The fields of a record (R45, R47 check 1) -/

theorem finOf_some {n v : Nat} {c : Fin n} (named : v = c.val) : finOf n v = some c :=
  (dif_pos (named ▸ c.isLt)).trans (congrArg some (Fin.ext named))

theorem finOf_none {n v : Nat} (beyond : n ≤ v) : finOf n v = none := dif_neg (Nat.not_lt.mpr beyond)

theorem laneOf_some {b : Byte} {c : LaneId} (named : b.toNat = c.val) : laneOf b = some c := finOf_some named

theorem channelOf_some {b : Byte} {c : ChannelId} (named : b.toNat = c.val) : channelOf b = some c := finOf_some named

theorem noteFieldsOf_tap {r : NoteRec} {c : LaneId} (kind : r.kind = 0#8) (place : r.place.toNat = c.val) :
    noteFieldsOf r = some (.tap c) := by
  have known : noteKindOf r.kind = some .tap := by rw [kind]; rfl
  simp only [noteFieldsOf, known, laneOf_some place, Option.map_some]

theorem noteFieldsOf_hold {r : NoteRec} {c : LaneId} (kind : r.kind = 1#8) (place : r.place.toNat = c.val)
    (length : 1 ≤ r.length.toNat) (tail : r.tick.toNat + r.length.toNat ≤ 4294967295) :
    noteFieldsOf r = some (.hold c (r.tick.toNat + r.length.toNat)) := by
  have known : noteKindOf r.kind = some .hold := by rw [kind]; rfl
  simp only [noteFieldsOf, known, laneOf_some place, Option.map_some]
  exact if_pos ⟨length, tail⟩

theorem noteFieldsOf_mine {r : NoteRec} {c : LaneId} (kind : r.kind = 2#8) (place : r.place.toNat = c.val) :
    noteFieldsOf r = some (.mine c) := by
  have known : noteKindOf r.kind = some .mine := by rw [kind]; rfl
  simp only [noteFieldsOf, known, laneOf_some place, Option.map_some]

theorem noteFieldsOf_cueMark {r : NoteRec} {c : ChannelId} (kind : r.kind = 3#8) (place : r.place.toNat = c.val) :
    noteFieldsOf r = some (.cueMark c) := by
  have known : noteKindOf r.kind = some .cueMark := by rw [kind]; rfl
  simp only [noteFieldsOf, known, channelOf_some place, Option.map_some]

theorem noteFieldsOf_endMark {r : NoteRec} (kind : r.kind = 4#8) : noteFieldsOf r = some .endMark := by
  have known : noteKindOf r.kind = some .endMark := by rw [kind]; rfl
  simp only [noteFieldsOf, known]

/-- R45: a kind byte names one of the five kinds, or none. -/
theorem kind_cases (b : Byte) : b = 0#8 ∨ b = 1#8 ∨ b = 2#8 ∨ b = 3#8 ∨ b = 4#8 ∨ 4 < b.toNat := by bv_omega

theorem noteKindOf_none {b : Byte} (beyond : 4 < b.toNat) : noteKindOf b = none := by
  grind [noteKindOf]

/-- R47, check 1: a record of no kind, of no place of its kind, or of a HOLD without a tail. -/
theorem noteFieldsOf_none {r : NoteRec}
    (bad : 4 < r.kind.toNat ∨ (r.kind.toNat ≤ 2 ∧ 8 < r.place.toNat) ∨ (r.kind.toNat = 3 ∧ 7 < r.place.toNat) ∨
      (r.kind.toNat = 1 ∧ (r.length.toNat = 0 ∨ 4294967295 < r.tick.toNat + r.length.toNat))) :
    noteFieldsOf r = none := by
  have lane : 8 < r.place.toNat → laneOf r.place = none := finOf_none
  have channel : 7 < r.place.toNat → channelOf r.place = none := finOf_none
  rcases kind_cases r.kind with kind | kind | kind | kind | kind | beyond
  · have known : noteKindOf r.kind = some .tap := by rw [kind]; rfl
    simp [kind] at bad
    simp only [noteFieldsOf, known, lane bad, Option.map_none]
  · have known : noteKindOf r.kind = some .hold := by rw [kind]; rfl
    simp [kind] at bad
    simp only [noteFieldsOf, known]
    split
    · rename_i tail
      have : 8 < r.place.toNat := by
        unfold maxWord at tail
        omega
      rw [lane this, Option.map_none]
    · rfl
  · have known : noteKindOf r.kind = some .mine := by rw [kind]; rfl
    simp [kind] at bad
    simp only [noteFieldsOf, known, lane bad, Option.map_none]
  · have known : noteKindOf r.kind = some .cueMark := by rw [kind]; rfl
    simp [kind] at bad
    simp only [noteFieldsOf, known, channel bad, Option.map_none]
  · simp [kind] at bad
  · simp only [noteFieldsOf, noteKindOf_none beyond]

/-- R47, check 1: a record that passes it has fields; those of a HOLD have its tail's tick. -/
theorem noteFieldsOf_some {r : NoteRec} (lane : r.kind.toNat ≤ 2 → r.place.toNat ≤ 8) (known : r.kind.toNat ≤ 4)
    (channel : r.kind.toNat = 3 → r.place.toNat ≤ 7)
    (tail : r.kind.toNat = 1 → 1 ≤ r.length.toNat ∧ r.tick.toNat + r.length.toNat ≤ 4294967295) :
    ∃ fields, noteFieldsOf r = some fields ∧
      (r.kind.toNat = 1 → ∃ c, fields = .hold c (r.tick.toNat + r.length.toNat)) := by
  have place : r.kind.toNat ≤ 2 → ∃ c : LaneId, r.place.toNat = c.val := fun low =>
    ⟨⟨r.place.toNat, Nat.lt_succ_of_le (lane low)⟩, rfl⟩
  rcases kind_cases r.kind with kind | kind | kind | kind | kind | beyond
  · obtain ⟨c, here⟩ := place (by simp [kind])
    exact ⟨_, noteFieldsOf_tap kind here, by simp [kind]⟩
  · obtain ⟨c, here⟩ := place (by simp [kind])
    obtain ⟨length, fits⟩ := tail (by simp [kind])
    exact ⟨_, noteFieldsOf_hold kind here length fits, fun _ => ⟨c, rfl⟩⟩
  · obtain ⟨c, here⟩ := place (by simp [kind])
    exact ⟨_, noteFieldsOf_mine kind here, by simp [kind]⟩
  · have here : r.place.toNat = (⟨r.place.toNat, Nat.lt_succ_of_le (channel (by simp [kind]))⟩ : ChannelId).val := rfl
    exact ⟨_, noteFieldsOf_cueMark kind here, by simp [kind]⟩
  · exact ⟨_, noteFieldsOf_endMark kind, by simp [kind]⟩
  · omega

/-! ### The conversion of a record's ticks (R47, checks 2 and 3) -/

theorem frameOrRefusal_frame {map : List Segment} {tick : Nat} {f : Int} (converts : convert map tick = .frame f) :
    frameOrRefusal map tick = .ok f := by
  simp only [frameOrRefusal, converts]

theorem frameOrRefusal_outOfRange {map : List Segment} {tick : Nat} (beyond : convert map tick = .outOfRange) :
    frameOrRefusal map tick = .error .badValue := by
  simp only [frameOrRefusal, beyond]

theorem incomingOf_bad {map : List Segment} {r : NoteRec} (bad : noteFieldsOf r = none) (lm : LaneMap) :
    incomingOf map lm r = .error .badValue := by
  simp only [incomingOf, bad]

theorem incomingOf_refused {map : List Segment} {r : NoteRec} {fields : NoteFields} {c : Code}
    (known : noteFieldsOf r = some fields) (refused : frameOrRefusal map r.tick.toNat = .error c) (lm : LaneMap) :
    incomingOf map lm r = .error c := by
  simp only [incomingOf, known, refused]

theorem incomingOf_tailRefused {map : List Segment} {r : NoteRec} {lane : LaneId} {tail : Nat} {f : Int} {c : Code}
    (known : noteFieldsOf r = some (.hold lane tail)) (converts : frameOrRefusal map r.tick.toNat = .ok f)
    (refused : frameOrRefusal map tail = .error c) (lm : LaneMap) : incomingOf map lm r = .error c := by
  simp only [incomingOf, known, converts, refused]

theorem incomingOf_hold {map : List Segment} {r : NoteRec} {c : LaneId} {tailTick : Nat} {f tail : Int}
    (known : noteFieldsOf r = some (.hold c tailTick)) (converts : convert map r.tick.toNat = .frame f)
    (ends : convert map tailTick = .frame tail) (lm : LaneMap) :
    incomingOf map lm r =
      .ok { kind := .hold, tick := r.tick.toNat, frame := f, body := .hold c (lm.apply c) tailTick tail } := by
  simp only [incomingOf, known, frameOrRefusal_frame converts, frameOrRefusal_frame ends]

/-! ### The tests of the station's intake record (R47, checks 4 to 11) -/

/-- R45: the mapped lane of a TAP, HOLD or MINE record. -/
def Incoming.On (n : Incoming) (l : LaneId) : Prop :=
  (∃ c, n.body = .tap c l) ∨ (∃ c tick f, n.body = .hold c l tick f) ∨ ∃ c, n.body = .mine c l

theorem lane_eq_some_iff {n : Incoming} {l : LaneId} : n.lane = some l ↔ n.On l := by
  unfold Incoming.lane Incoming.On
  cases n.body <;> simp

/-- A test of the record's lane, where it has one. -/
theorem lane_any_iff {n : Incoming} {test : LaneId → Bool} {p : LaneId → Prop} (same : ∀ l, test l = true ↔ p l) :
    n.lane.any test = true ↔ ∃ l, n.On l ∧ p l := by
  simp only [Option.any_eq_true, lane_eq_some_iff, same]

theorem incoming_isStep_iff {n : Incoming} : n.isStep = true ↔ n.kind = .tap ∨ n.kind = .hold := decide_eq_true_iff

theorem sameTick_iff {t : Intake} {n : Incoming} : t.sameTick n = true ↔ t.lastTick = some n.tick := decide_eq_true_iff

/-- R54: when a record could no longer be judged. -/
theorem late_iff {w : Windows} {now : Int} {n : Incoming} :
    n.late w now = true ↔
      ((n.kind = .tap ∨ n.kind = .hold) ∧ n.frame + Int.ofNat w.w4 ≤ now) ∨
        (n.kind = .mine ∧ n.frame + Int.ofNat w.wm ≤ now) ∨
        ((n.kind = .cueMark ∨ n.kind = .endMark) ∧ n.frame < now) := by
  unfold Incoming.late
  cases n.kind <;> simp

/-- R47, checks 8 to 11: what is tested of a record whose lane, tick and tails pass. -/
def Station.refusalBehind (st : Station) (late : Bool) (n : Incoming) : Option Code :=
  if n.isStep && st.intake.sameTick n && decide (4 ≤ st.intake.chordCount) then some .chordLimit
  else if n.isStep && decide (st.intake.sealedTick = some n.tick) then some .chordClosed
  else if late then some .late
  else if 192 ≤ st.queue.length then some .full
  else none

theorem checkRecord_ended {s : State} {k : StationId} (ended : (s.station k).endAccepted = true) (r : NoteRec) :
    s.checkRecord k r = .error .ended := if_pos ended

theorem checkRecord_fields {s : State} {k : StationId} {r : NoteRec} {c : Code}
    (goesOn : (s.station k).endAccepted = false)
    (refused : incomingOf s.clock.map (s.station k).laneMap r = .error c) : s.checkRecord k r = .error c := by
  simp only [State.checkRecord, goesOn, refused, Bool.false_eq_true, if_false]

theorem checkRecord_refused {s : State} {k : StationId} {r : NoteRec} {n : Incoming} {c : Code}
    (goesOn : (s.station k).endAccepted = false)
    (reads : incomingOf s.clock.map (s.station k).laneMap r = .ok n)
    (refused : (s.station k).refusal (s.playing k && n.late s.windows s.now) n = some c) :
    s.checkRecord k r = .error c := by
  simp only [State.checkRecord, goesOn, reads, refused, Bool.false_eq_true, if_false]

theorem checkRecord_passed {s : State} {k : StationId} {r : NoteRec} {n : Incoming}
    (goesOn : (s.station k).endAccepted = false)
    (reads : incomingOf s.clock.map (s.station k).laneMap r = .ok n)
    (passed : (s.station k).refusal (s.playing k && n.late s.windows s.now) n = none) :
    s.checkRecord k r = .ok n := by
  simp only [State.checkRecord, goesOn, reads, passed, Bool.false_eq_true, if_false]

/-- Settles O32: `noteFieldsOf_none` and the conversions for what the record alone decides, one equation for each kind,
and the tests of the intake record, each behind those before it. -/
theorem chartRecordChecks : Obligations.ChartRecordChecks := by
  unfold Obligations.ChartRecordChecks
  refine ⟨fun k r s => ⟨fun ended => checkRecord_ended ended r, fun goesOn => ⟨fun bad => ?_, ?_⟩⟩,
    fun map lm r f converts => ⟨fun c place => ⟨fun kind => ?_, fun kind => ?_, ?_⟩, fun c place kind => ?_, fun kind => ?_⟩,
    ?_⟩
  · exact checkRecord_fields goesOn (incomingOf_bad (noteFieldsOf_none bad) _)
  · intro lane known channel tail
    obtain ⟨fields, has, hold⟩ := noteFieldsOf_some lane known channel tail
    refine ⟨fun empty => ?_, fun beyond => ?_, fun f converts kind beyond => ?_⟩
    · refine checkRecord_fields goesOn (incomingOf_refused has ?_ _)
      rw [empty]
      rfl
    · exact checkRecord_fields goesOn (incomingOf_refused has (frameOrRefusal_outOfRange beyond) _)
    · obtain ⟨c, rfl⟩ := hold kind
      exact checkRecord_fields goesOn
        (incomingOf_tailRefused has (frameOrRefusal_frame converts) (frameOrRefusal_outOfRange beyond) _)
  · simp only [incomingOf, noteFieldsOf_tap kind place, frameOrRefusal_frame converts]
  · simp only [incomingOf, noteFieldsOf_mine kind place, frameOrRefusal_frame converts]
  · exact fun tail kind length fits ends => incomingOf_hold (noteFieldsOf_hold kind place length fits) converts ends lm
  · simp only [incomingOf, noteFieldsOf_cueMark kind place, frameOrRefusal_frame converts]
  · simp only [incomingOf, noteFieldsOf_endMark kind, frameOrRefusal_frame converts]
  · intro k r n s goesOn reads st t now on step lane order duplicate overlap limit closed late check
    have refused := fun c => checkRecord_refused (c := c) goesOn reads
    have laneTest : (n.lane.any fun l => !LaneSet.has st.laneMask l) = true ↔ lane :=
      lane_any_iff fun l => iff_of_eq (Bool.not_eq_true' _)
    have orderTest : (t.lastTick.any fun last => decide (n.tick < last)) = true ↔ order := by
      simp only [Option.any_eq_true, decide_eq_true_eq, order]
    have duplicateTest : (t.sameTick n && n.lane.any fun l => LaneSet.has t.lastLanes l) = true ↔ duplicate := by
      rw [Bool.and_eq_true, sameTick_iff, lane_any_iff fun l => Iff.rfl]
      rfl
    have overlapTest : (n.lane.any fun l => (t.tails[l]).any fun tail => decide (n.tick ≤ tail)) = true ↔ overlap :=
      lane_any_iff fun l => by simp only [Option.any_eq_true, decide_eq_true_eq]
    have limitTest : (n.isStep && t.sameTick n && decide (4 ≤ t.chordCount)) = true ↔ limit := by
      rw [Bool.and_eq_true, Bool.and_eq_true, incoming_isStep_iff, sameTick_iff, decide_eq_true_eq, and_assoc]
    have closedTest : (n.isStep && decide (t.sealedTick = some n.tick)) = true ↔ closed := by
      rw [Bool.and_eq_true, incoming_isStep_iff, decide_eq_true_eq]
    have lateTest : (s.playing k && n.late s.windows s.now) = true ↔ late := by
      rw [Bool.and_eq_true, late_iff, State.playing, decide_eq_true_eq]
      rfl
    refine ⟨fun h => refused _ (if_pos (laneTest.mpr h)), fun a h => refused _ ?_, fun a b h => refused _ ?_,
      fun a b c h => refused _ ?_, fun a b c d => ?_⟩
    · exact (if_neg (mt laneTest.mp a)).trans (if_pos (orderTest.mpr h))
    · exact (if_neg (mt laneTest.mp a)).trans ((if_neg (mt orderTest.mp b)).trans (if_pos (duplicateTest.mpr h)))
    · exact (if_neg (mt laneTest.mp a)).trans ((if_neg (mt orderTest.mp b)).trans
        ((if_neg (mt duplicateTest.mp c)).trans (if_pos (overlapTest.mpr h))))
    · have behind : st.refusal (s.playing k && n.late s.windows s.now) n =
          st.refusalBehind (s.playing k && n.late s.windows s.now) n :=
        (if_neg (mt laneTest.mp a)).trans ((if_neg (mt orderTest.mp b)).trans
          ((if_neg (mt duplicateTest.mp c)).trans (if_neg (mt overlapTest.mp d))))
      refine ⟨fun h => refused _ (behind.trans (if_pos (limitTest.mpr h))),
        fun e h => refused _ (behind.trans ?_), fun e f h => refused _ (behind.trans ?_),
        fun e f g h => refused _ (behind.trans ?_), fun e f g h => checkRecord_passed goesOn reads (behind.trans ?_)⟩
      · exact (if_neg (mt limitTest.mp e)).trans (if_pos (closedTest.mpr h))
      · exact (if_neg (mt limitTest.mp e)).trans ((if_neg (mt closedTest.mp f)).trans (if_pos (lateTest.mpr h)))
      · exact (if_neg (mt limitTest.mp e)).trans ((if_neg (mt closedTest.mp f)).trans
          ((if_neg (mt lateTest.mp g)).trans (if_pos h)))
      · exact (if_neg (mt limitTest.mp e)).trans ((if_neg (mt closedTest.mp f)).trans
          ((if_neg (mt lateTest.mp g)).trans (if_neg (Nat.not_le.mpr h))))

end Sys2Proof.Machine
end

section
/-! SUPPORT. Starvation (R55, R56): which flag is due, and what is offered as it is set; with what an accepted record
clears (R49, R50). -/

namespace Sys2Proof.Machine

/-! ### Offers in an open order (log 6) -/

/-- Reports offered in any order are offered in some order. -/
theorem offerAny_spec (rs : List Report) (s : State) :
    ∃ (order : List Report) (u : State), order.Perm rs ∧ Drawn s u ∧
      s.offerAny rs = order.foldl (fun t r => t.offer r) u := by
  obtain ⟨order, cs, count, perm, offered⟩ := inAnyOrder_spec State.offer rs s
  exact ⟨order, { s with choices := cs, choiceCount := count }, perm, rfl, offered⟩

theorem offerAny_nil (s : State) : s.offerAny [] = s := rfl

theorem offerAny_one (r : Report) (s : State) : s.offerAny [r] = s.offer r := rfl

theorem offerAny_two (a b : Report) (s : State) :
    ∃ u, Drawn s u ∧ (s.offerAny [a, b] = (u.offer a).offer b ∨ s.offerAny [a, b] = (u.offer b).offer a) := by
  obtain ⟨order, u, perm, drawn, offered⟩ := offerAny_spec [a, b] s
  rcases List.perm_pair.mp perm with rfl | rfl
  · exact ⟨u, drawn, .inl offered⟩
  · exact ⟨u, drawn, .inr offered⟩

/-! ### The flags that are due (R55, R56) -/

theorem starvable_iff {s : State} {k : StationId} :
    s.starvable k = true ↔ (s.station k).state = .playing ∧ (s.station k).endAccepted = false := by
  simp [State.starvable, State.playing]

theorem starvingDue_iff {s : State} {k : StationId} :
    s.starvingDue k = true ↔ s.starvable k = true ∧ (s.station k).starving = false ∧
      s.lookahead k < Int.ofNat (s.station k).lookahead := by
  simp [State.starvingDue, and_assoc]

theorem starvedDue_iff {s : State} {k : StationId} :
    s.starvedDue k = true ↔ s.starvable k = true ∧ (s.station k).starved = false ∧
      (s.station k).intake.lastClose.getD s.song.startFrame < s.now := by
  simp [State.starvedDue, and_assoc]

theorem evalStarvation_none {s : State} {k : StationId} (low : ¬ s.starvingDue k = true)
    (out : ¬ s.starvedDue k = true) : s.evalStarvation k = s := by
  simp only [State.evalStarvation, low, out, Bool.false_eq_true, if_false, Bool.or_false, List.append_nil, offerAny_nil,
    State.mapStation_id]

theorem evalStarvation_starving {s : State} {k : StationId} (low : s.starvingDue k = true)
    (out : ¬ s.starvedDue k = true) :
    s.evalStarvation k = (s.mapStation k fun st => { st with starving := true }).offer
      (s.noticeOf (.starving k (clampFrame (s.lookahead k)))) := by
  simp only [State.evalStarvation, low, out, Bool.false_eq_true, if_true, if_false, Bool.or_true, Bool.or_false,
    List.append_nil, offerAny_one]

theorem evalStarvation_starved {s : State} {k : StationId} (low : ¬ s.starvingDue k = true)
    (out : s.starvedDue k = true) :
    s.evalStarvation k = (s.mapStation k fun st => { st with starved := true }).offer (s.noticeOf (.starved k)) := by
  simp only [State.evalStarvation, low, out, Bool.false_eq_true, if_true, if_false, Bool.or_true, Bool.or_false,
    List.nil_append, offerAny_one]

/-- R55, R56: where both notices are due their order is open (log 31). -/
theorem evalStarvation_both {s : State} {k : StationId} (low : s.starvingDue k = true) (out : s.starvedDue k = true) :
    s.evalStarvation k = (s.mapStation k fun st => { st with starving := true, starved := true }).offerAny
      [s.noticeOf (.starving k (clampFrame (s.lookahead k))), s.noticeOf (.starved k)] := by
  simp only [State.evalStarvation, low, out, if_true, Bool.or_true, List.cons_append, List.nil_append]

theorem clearStarvation_not {s : State} {k : StationId} (idle : ¬ s.starvable k = true) : s.clearStarvation k = s :=
  if_neg idle

/-- R49: what an accepted record reaches is cleared. -/
theorem clearStarvation_reaches {s : State} {k : StationId} (feeds : s.starvable k = true) :
    s.clearStarvation k = s.mapStation k fun st =>
      { st with starving := if Int.ofNat st.lookahead ≤ s.lookahead k then false else st.starving,
                starved := if 0 ≤ s.lookahead k then false else st.starved } := by
  have clear : ∀ (p : Prop) [Decidable p] (b : Bool), (b && !decide p) = if p then false else b := fun p _ b => by
    by_cases p <;> simp [*]
  refine (if_pos feeds).trans (State.mapStation_congr s ?_)
  simp only [clear]

/-- Settles O33: which flags are due, the four cases of `evalStarvation`, and what an accepted record clears. -/
theorem starvationFlagsAndNotices : Obligations.StarvationFlagsAndNotices := by
  unfold Obligations.StarvationFlagsAndNotices
  refine ⟨fun k s => ?_, fun k id n s => rfl, fun w id n st ends => ?_⟩
  · intro st now ahead close starving starved low out
    have due : s.starvingDue k = true ↔ (st.state = .playing ∧ st.endAccepted = false) ∧ starving :=
      starvingDue_iff.trans (and_congr_left' starvable_iff)
    have dueOut : s.starvedDue k = true ↔ (st.state = .playing ∧ st.endAccepted = false) ∧ starved :=
      starvedDue_iff.trans (and_congr_left' starvable_iff)
    refine ⟨fun idle => ?_, fun playing goesOn => ⟨fun a b => ?_, fun a b => ?_, fun a b => ?_, fun a b => ?_, ?_⟩, ?_⟩
    · have not : ¬ (st.state = .playing ∧ st.endAccepted = false) := by
        rintro ⟨playing, goesOn⟩
        rcases idle with other | ended
        · exact other playing
        · exact absurd (goesOn.symm.trans ended) nofun
      exact ⟨evalStarvation_none (fun h => not (due.mp h).1) fun h => not (dueOut.mp h).1,
        clearStarvation_not (mt starvable_iff.mp not)⟩
    · exact evalStarvation_none (fun h => a (due.mp h).2) fun h => b (dueOut.mp h).2
    · exact evalStarvation_starving (due.mpr ⟨⟨playing, goesOn⟩, a⟩) fun h => b (dueOut.mp h).2
    · exact evalStarvation_starved (fun h => a (due.mp h).2) (dueOut.mpr ⟨⟨playing, goesOn⟩, b⟩)
    · obtain ⟨u, drawn, offered⟩ := offerAny_two low out
        (s.mapStation k fun st => { st with starving := true, starved := true })
      have both := evalStarvation_both (due.mpr ⟨⟨playing, goesOn⟩, a⟩) (dueOut.mpr ⟨⟨playing, goesOn⟩, b⟩)
      exact ⟨u, drawn, offered.imp both.trans both.trans⟩
    · exact clearStarvation_reaches (starvable_iff.mpr ⟨playing, goesOn⟩)
    · rw [due, dueOut, ← and_or_left, and_assoc]
  · refine ⟨?_, ?_, ?_⟩ <;> simp [Station.accept, ends]

end Sys2Proof.Machine
end

section
/-! SUPPORT. The acceptance of a record (R48 to R53): the station record behind it, the chord group of its tick, and what is
due of its entry at once. -/

namespace Sys2Proof.Machine

/-! ### The intake record behind a TAP or a HOLD (R48) -/

/-- R45: a TAP or a HOLD record of a chart lane and its mapped lane. -/
def Incoming.IsStepOn (n : Incoming) (c l : LaneId) : Prop :=
  (n.kind = .tap ∧ n.body = .tap c l) ∨ (n.kind = .hold ∧ ∃ tick f, n.body = .hold c l tick f)

theorem Incoming.IsStepOn.isStep {n : Incoming} {c l : LaneId} (h : n.IsStepOn c l) : n.isStep = true :=
  incoming_isStep_iff.mpr (h.imp And.left And.left)

theorem Incoming.IsStepOn.lane {n : Incoming} {c l : LaneId} (h : n.IsStepOn c l) : n.lane = some l := by
  rcases h with ⟨_, body⟩ | ⟨_, _, _, body⟩ <;> simp only [Incoming.lane, body]

theorem Incoming.IsStepOn.closeFrame {n : Incoming} {c l : LaneId} (h : n.IsStepOn c l) (w : Windows) (f : Int) :
    n.kind.closeFrame w f = f + Int.ofNat w.w4 := by
  rcases h with ⟨kind, _⟩ | ⟨kind, _⟩ <;> rw [kind] <;> rfl

theorem Incoming.IsStepOn.not_endMark {n : Incoming} {c l : LaneId} (h : n.IsStepOn c l) : n.kind ≠ .endMark := by
  rcases h with ⟨kind, _⟩ | ⟨kind, _⟩ <;> rw [kind] <;> decide

theorem accept_sameTick {t : Intake} {n : Incoming} {c l : LaneId} (step : n.IsStepOn c l)
    (same : t.lastTick = some n.tick) (w : Windows) :
    (t.accept w n).chordCount = t.chordCount + 1 ∧ (t.accept w n).lastLanes = (t.lastLanes ||| (1#9 <<< l.val)) := by
  simp only [Intake.accept, step.isStep, step.lane, sameTick_iff.mpr same, if_true, LaneSet.single, and_self]

theorem accept_newTick {t : Intake} {n : Incoming} {c l : LaneId} (step : n.IsStepOn c l)
    (new : t.lastTick ≠ some n.tick) (w : Windows) :
    (t.accept w n).chordCount = 1 ∧ (t.accept w n).lastLanes = 1#9 <<< l.val := by
  simp only [Intake.accept, step.isStep, step.lane, mt sameTick_iff.mp new, Bool.false_eq_true, if_true, if_false,
    LaneSet.single, Nat.zero_add, true_and]
  exact BitVec.zero_or

theorem accept_tails_hold {n : Incoming} {c l : LaneId} {tick : Nat} {f : Int} (body : n.body = .hold c l tick f)
    (w : Windows) (t : Intake) : (t.accept w n).tails = t.tails.set l (some tick) := by
  simp only [Intake.accept, body]

theorem accept_tails_tap {n : Incoming} {c l : LaneId} (body : n.body = .tap c l) (w : Windows) (t : Intake) :
    (t.accept w n).tails = t.tails := by
  simp only [Intake.accept, body]

/-! ### The chord group (R52) -/

theorem getLsbD_single (l m : LaneId) : (LaneSet.single l).getLsbD m.val = decide (m = l) := getLsbD_oneLane l m

theorem getLsbD_laneSet {e : Entry} {m : LaneId} : e.laneSet.getLsbD m.val = true ↔ e.lane = some m := by
  unfold Entry.laneSet
  cases e.lane with
  | none => simp
  | some l => rw [getLsbD_single, decide_eq_true_eq, Option.some.injEq, eq_comm]

/-- The lanes of a group are those of its members. -/
theorem getLsbD_lanesOf (members : List Entry) (m : LaneId) :
    (lanesOf members).getLsbD m.val = true ↔ ∃ x ∈ members, x.lane = some m := by
  have folded : ∀ (es : List Entry) (acc : LaneSet),
      (es.foldl (fun acc e => acc ||| e.laneSet) acc).getLsbD m.val = true ↔
        acc.getLsbD m.val = true ∨ ∃ x ∈ es, x.lane = some m := by
    intro es
    induction es with
    | nil => simp
    | cons e es ih =>
      intro acc
      rw [List.foldl_cons, ih, BitVec.getLsbD_or, Bool.or_eq_true, getLsbD_laneSet, or_assoc]
      simp
  rw [lanesOf, folded]
  simp

/-- R49: the queue behind an accepted record, before a chord group is formed. -/
def Station.queueWith (st : Station) (id : Half) (n : Incoming) : List Entry :=
  st.queue ++ [n.entry st.intake.nextSeq id]

/-- R49: the record stands at the back of the queue where no chord group is formed. -/
theorem accept_queue_plain {w : Windows} {n : Incoming} {st : Station}
    (alone : n.isStep = false ∨ (st.intake.accept w n).chordCount < 2) (id : Half) :
    (st.accept w id n).queue = st.queueWith id n := by
  refine if_neg fun forms => ?_
  rw [Bool.and_eq_true, decide_eq_true_eq] at forms
  rcases alone with marker | few
  · exact absurd (marker.symm.trans forms.1) nofun
  · omega

/-- R52: with a tick's second and later TAPs and HOLDs every one of them is given the chord group. -/
theorem accept_queue_chord {w : Windows} {n : Incoming} {st : Station} (step : n.isStep = true)
    (many : 2 ≤ (st.intake.accept w n).chordCount) (id : Half) :
    (st.accept w id n).queue =
      groupChord n.tick (st.intake.accept w n).chordCount (st.queueWith id n) := by
  refine if_pos ?_
  rw [Bool.and_eq_true, decide_eq_true_eq]
  exact ⟨step, many⟩

/-- R52: the chord group of a tick: its count, and the lanes of all its TAPs and HOLDs. -/
theorem groupChord_spec (tick count : Nat) (queue : List Entry) :
    ∃ lanes : LaneSet,
      (∀ m : LaneId, lanes.getLsbD m.val = true ↔ ∃ x ∈ queue, x.isStep = true ∧ x.tick = tick ∧ x.lane = some m) ∧
      groupChord tick count queue = queue.map fun x =>
        if x.isStep = true ∧ x.tick = tick then { x with chord := some { count := count, lanes := lanes } } else x := by
  refine ⟨lanesOf (queue.filter fun e => e.isStep && decide (e.tick = tick)), fun m => ?_, ?_⟩
  · simp only [getLsbD_lanesOf, List.mem_filter, Bool.and_eq_true, decide_eq_true_eq, and_assoc]
  · simp only [groupChord, Bool.and_eq_true, decide_eq_true_eq]

/-! ### The station record behind a MINE or a marker (R48, R50) -/

/-- R48, R49, R50: a MINE or a marker forms no chord; a MINE adds its lane to those of the tick, and an END_MARK sets
END-accepted and clears both flags of starvation. -/
theorem accept_notStep {n : Incoming} {c l : LaneId} {channel : ChannelId}
    (kinds : (n.kind = .mine ∧ n.body = .mine c l) ∨ (n.kind = .cueMark ∧ n.body = .cueMark channel) ∨
      (n.kind = .endMark ∧ n.body = .endMark)) (w : Windows) (id : Half) (st : Station) :
    st.accept w id n =
      let lanes := if st.intake.lastTick = some n.tick then st.intake.lastLanes else 0
      let ends := decide (n.kind = .endMark)
      { st with
        intake := { st.intake with
          lastTick := some n.tick, lastFrame := some n.frame, lastKind := some n.kind,
          lastClose := some (if n.kind = .mine then n.frame + Int.ofNat w.wm else n.frame),
          lastLanes := if n.kind = .mine then lanes ||| (1#9 <<< l.val) else lanes,
          chordCount := if st.intake.lastTick = some n.tick then st.intake.chordCount else 0,
          nextSeq := st.intake.nextSeq + 1 },
        queue := st.queueWith id n, endAccepted := st.endAccepted || ends, starving := st.starving && !ends,
        starved := st.starved && !ends } := by
  have notStep : n.isStep = false := by
    rcases kinds with ⟨kind, _⟩ | ⟨kind, _⟩ | ⟨kind, _⟩ <;> simp [Incoming.isStep, kind]
  rw [← accept_queue_plain (w := w) (.inl notStep) id]
  rcases kinds with ⟨kind, body⟩ | ⟨kind, body⟩ | ⟨kind, body⟩ <;>
    simp [Station.accept, Intake.accept, Intake.sameTick, Incoming.lane, NoteKind.closeFrame, LaneSet.single, notStep,
      kind, body]

/-! ### What is due of an accepted entry at once (R49, R53, R99, R105) -/

theorem openAtIntake_idle {s : State} {k : StationId} {seq : Nat}
    (idle : (s.station k).state ≠ .playing ∨ s.song.state ≠ .running ∨ (s.station k).entry? seq = none) :
    s.openAtIntake k seq = s := by
  unfold State.openAtIntake
  split
  · rename_i plays
    simp only [State.playing, Bool.and_eq_true, decide_eq_true_eq] at plays
    obtain ⟨playing, running⟩ := plays
    have none := (idle.resolve_left (not_not_intro playing)).resolve_left (not_not_intro running)
    simp only [none]
  · rfl

/-- R49: the entry whose window or marker may be due at once. -/
theorem openAtIntake_some {s : State} {k : StationId} {seq : Nat} {e : Entry} (playing : (s.station k).state = .playing)
    (running : s.song.state = .running) (found : (s.station k).entry? seq = some e) :
    s.openAtIntake k seq =
      if s.now < e.openFrame s.windows then s
      else if e.isStep then s.mapStation k (Station.openSteps e)
      else if e.isMine then s.mapStation k (Station.mapEntries [seq] fun x => { x with state := .opened })
      else s.takeMarker k e := by
  simp only [State.openAtIntake, State.playing, playing, running, found, decide_true, Bool.and_self, if_true]

theorem entry?_seq {st : Station} {seq : Nat} {e : Entry} (found : st.entry? seq = some e) : e.seq = seq :=
  of_decide_eq_true (List.find?_some (p := fun x : Entry => decide (x.seq = seq)) found)

theorem mine_width {e : Entry} (mine : e.isMine = true) (w : Windows) : e.width w = w.wm := by
  unfold Entry.isMine at mine
  unfold Entry.width
  split <;> simp_all

theorem mine_not_step {e : Entry} (mine : e.isMine = true) : e.isStep = false := by
  unfold Entry.isMine at mine
  unfold Entry.isStep
  split <;> simp_all

/-- A marker has no window: its open frame is its frame. -/
theorem marker_openFrame {e : Entry} (marker : (∃ channel, e.body = .cueMark channel) ∨ e.body = .endMark)
    (w : Windows) : e.openFrame w = e.frame ∧ e.isStep = false ∧ e.isMine = false := by
  rcases marker with ⟨channel, body⟩ | body <;> simp [Entry.openFrame, Entry.width, Entry.isStep, Entry.isMine, body]

theorem openAtIntake_marker {s : State} {k : StationId} {seq : Nat} {e : Entry}
    (playing : (s.station k).state = .playing) (running : s.song.state = .running)
    (found : (s.station k).entry? seq = some e)
    (marker : (∃ channel, e.body = .cueMark channel) ∨ e.body = .endMark) :
    s.openAtIntake k seq = if s.now < e.frame then s else s.takeMarker k e := by
  obtain ⟨frame, notStep, notMine⟩ := marker_openFrame marker s.windows
  simp only [openAtIntake_some playing running found, frame, notStep, notMine, Bool.false_eq_true, if_false]

/-- Settles O34: the intake record and the chord group behind a TAP or a HOLD, `accept_notStep` for the other kinds, and
`openAtIntake_some` for what is due at once. -/
theorem acceptedRecordEntersTheQueue : Obligations.AcceptedRecordEntersTheQueue := by
  unfold Obligations.AcceptedRecordEntersTheQueue
  refine ⟨fun w id n st c l step => ?_, fun w id n st c l channel kinds => accept_notStep kinds w id st,
    fun k seq e s => ⟨openAtIntake_idle, fun playing running found => ⟨fun step => ?_, fun mine => ?_,
      fun channel body => ?_, fun body => ?_⟩⟩⟩
  · have step : n.IsStepOn c l := step
    refine ⟨rfl, rfl, rfl, congrArg some (step.closeFrame w n.frame), rfl, fun same => accept_sameTick step same w,
      fun new => accept_newTick step new w, ⟨fun few => accept_queue_plain (.inr few) id, fun many => ?_⟩,
      fun tick f body => accept_tails_hold body w st.intake, fun body => accept_tails_tap body w st.intake,
      rfl, rfl, rfl, rfl, rfl, ?_, rfl, rfl⟩
    · rw [accept_queue_chord step.isStep many]
      exact groupChord_spec n.tick _ _
    · simp [Station.accept, step.not_endMark]
  · have due := openAtIntake_some playing running found
    rw [Entry.openFrame, step_width step, if_pos step] at due
    exact ⟨fun before => due.trans (if_pos before), fun reached => due.trans (if_neg (Int.not_lt.mpr reached))⟩
  · have due := openAtIntake_some playing running found
    simp only [Entry.openFrame, mine_width mine, mine, mine_not_step mine, Bool.false_eq_true, if_true, if_false] at due
    exact ⟨fun before => due.trans (if_pos before), fun reached => due.trans (if_neg (Int.not_lt.mpr reached))⟩
  · have due := openAtIntake_marker playing running found (.inl ⟨channel, body⟩)
    refine ⟨fun before => due.trans (if_pos before), fun here => due.trans ((if_neg (Int.not_lt.mpr here.le)).trans ?_)⟩
    simp only [State.takeMarker, body, entry?_seq found]
    exact congrArg (State.checkCleared k) (if_pos here)
  · have due := openAtIntake_marker playing running found (.inr body)
    refine ⟨fun before => due.trans (if_pos before), fun reached => due.trans ((if_neg (Int.not_lt.mpr reached)).trans ?_)⟩
    simp only [State.takeMarker, body, entry?_seq found]
    rfl

end Sys2Proof.Machine
end

section
/-! SUPPORT. The end of a station (R57 to R60, R129): its drain, the push that it takes, what it offers and raises, and its
end event; and the abort by song control (R145). -/

namespace Sys2Proof.Machine

/-! ### Chart counts (R61) -/

theorem countUp_fits {k : StationId} {c : CountKind} {n : Nat} {s : State}
    (fits : ((s.station k).counts[c.index]).toNat + n ≤ 4294967295) :
    s.countUp k c n = s.mapStation k fun st =>
      { st with counts := st.counts.set c.index (st.counts[c.index] + BitVec.ofNat 32 n) } := if_pos fits

/-- R61: a count that rises is the only one that is written; past its range its value is free (log 9). -/
theorem countUp_spec (k : StationId) (c : CountKind) (n : Nat) (s : State) :
    ∃ v, (((s.station k).counts[c.index]).toNat + n ≤ 4294967295 →
        v = (s.station k).counts[c.index] + BitVec.ofNat 32 n) ∧
      Drawn (s.mapStation k fun st => { st with counts := st.counts.set c.index v }) (s.countUp k c n) := by
  by_cases fits : ((s.station k).counts[c.index]).toNat + n ≤ 4294967295
  · refine ⟨(s.station k).counts[c.index] + BitVec.ofNat 32 n, fun _ => rfl, ?_⟩
    rw [countUp_fits fits]
    rfl
  · refine ⟨Config.chartCountPastMax s.choiceCount, fun h => absurd h fits, ?_⟩
    exact drawn_of_eq (cs := s.choices) (count := s.choiceCount + 1) (if_neg fits)

theorem Drawn.station {s t : State} (h : Drawn s t) (k : StationId) : t.station k = s.station k := by
  unfold Drawn at h
  rw [h]
  rfl

theorem Drawn.mapStation {s t : State} (h : Drawn s t) (k : StationId) (f : Station → Station) :
    Drawn (s.mapStation k f) (t.mapStation k f) := by
  unfold Drawn at h ⊢
  rw [h]
  rfl

theorem countUp_station (k : StationId) (c : CountKind) (n : Nat) (s : State) :
    ∃ v, (((s.station k).counts[c.index]).toNat + n ≤ 4294967295 →
        v = (s.station k).counts[c.index] + BitVec.ofNat 32 n) ∧
      (s.countUp k c n).station k = { s.station k with counts := (s.station k).counts.set c.index v } := by
  obtain ⟨v, value, drawn⟩ := countUp_spec k c n s
  exact ⟨v, value, (drawn.station k).trans (State.station_mapStation_same _ _ _)⟩

/-! ### The drain (R57) -/

theorem drainedSteps_eq (queue : List Entry) :
    drainedSteps queue = queue.countP fun x => x.isStep && decide (x.state ≠ .holding) := by
  unfold drainedSteps
  rw [isHolding_eq]
  simp only [decide_not]

/-- R37, R57: station k drained and in its end state, before a push is taken. -/
def State.ended (k : StationId) (e : EndState) (s : State) : State :=
  (s.drain k).mapStation k fun st => { st with state := e.station }

theorem ended_eq (k : StationId) (e : EndState) (s : State) :
    s.ended k e =
      ((s.countUp k .stepsDrained
        ((s.station k).queue.countP fun x => x.isStep && decide (x.state ≠ .holding))).countUp k .minesDrained
        ((s.station k).queue.countP Entry.isMine)).mapStation k fun st =>
          { st with state := e.station, queue := [], heldCloses := [], holds := [], carriedIn := 0 } := by
  unfold State.ended State.drain
  rw [State.mapStation_mapStation, drainedSteps_eq]
  rfl

/-- R57: the record of a station as it enters an end state; of its chart counts only those of the drain are written. -/
theorem ended_station (k : StationId) (e : EndState) (s : State) :
    ∃ steps mines, (s.ended k e).station k =
      { s.station k with
        state := e.station, queue := [], heldCloses := [], holds := [], carriedIn := 0,
        counts := ((s.station k).counts.set CountKind.stepsDrained.index steps).set CountKind.minesDrained.index
          mines } := by
  obtain ⟨steps, _, first⟩ := countUp_station k .stepsDrained (drainedSteps (s.station k).queue) s
  obtain ⟨mines, _, second⟩ := countUp_station k .minesDrained (drainedMines (s.station k).queue)
    (s.countUp k .stepsDrained (drainedSteps (s.station k).queue))
  refine ⟨steps, mines, ?_⟩
  simp only [State.ended, State.drain, State.station_mapStation_same, Station.emptied, second, first]

theorem ended_clock (k : StationId) (e : EndState) (s : State) : (s.ended k e).clock = s.clock :=
  (drain_moves k s).framed.clock

theorem ended_contactOf (k : StationId) (e : EndState) (s : State) (l : LaneId) :
    (s.ended k e).contactOf k l = s.contactOf k l := by
  have scanner : (s.ended k e).scanner = s.scanner := (drain_moves k s).framed.scanner
  rw [State.contactOf, scanner, State.contactOf]

/-- R58, R59: the notice of an end carries the displayed score as it was. -/
theorem ended_endNotice (k : StationId) (e : EndState) (s : State) :
    (s.ended k e).endNotice k e = s.endNotice k e := by
  obtain ⟨_, _, record⟩ := ended_station k e s
  cases e <;> simp only [State.endNotice, State.noticeOf, State.now, record, ended_clock]

/-! ### A pending push at an end (R129) -/

theorem chooseIf_true {b : Bool} {s : State} (h : (s.chooseIf b).1 = true) : b = true := by
  cases b with
  | true => rfl
  | false => exact h

theorem quiet_not_pressing {s : State} {k : StationId} (quiet : s.quiet k = true) (l : LaneId) :
    s.contactOf k l ≠ .pressing := by
  simp only [State.quiet, Bool.and_eq_true, Bool.not_eq_true', List.any_eq_false, State.lanePressing,
    decide_eq_true_eq] at quiet
  exact quiet.2 l (mem_allLanes l)

/-- R129: the point of a push is the end, or, where a clear leaves the station quiet, the quiet point (log 21). -/
theorem endPoint_spec (k : StationId) (e : EndState) (s : State) :
    Drawn s (s.endPoint k e).2 ∧
      ((s.endPoint k e).1 = .ended e ∨
        (e = .cleared ∧ (s.endPoint k e).1 = .quiet ∧ ∀ l, s.contactOf k l ≠ .pressing)) := by
  let matters := decide (e = .cleared) && (s.station k).pushPending && s.quiet k
  refine ⟨chooseIf_drawn matters s, ?_⟩
  by_cases first : (s.chooseIf matters).1 = true
  · have both := chooseIf_true first
    simp only [matters, Bool.and_eq_true, decide_eq_true_eq] at both
    obtain ⟨⟨cleared, _⟩, quiet⟩ := both
    exact .inr ⟨cleared, if_pos first, quiet_not_pressing quiet⟩
  · exact .inl (if_neg first)

/-- R57, R129: station k in its end state, with a pending push taken. -/
def State.endPushed (k : StationId) (e : EndState) (s : State) : State :=
  if (s.station k).pushPending = true then (s.ended k e).mapStation k Station.push else s.ended k e

/-- R129: the notice of a push that an end takes. -/
def State.endTaken (s : State) (k : StationId) (point : PushPoint) : List Report :=
  if (s.station k).pushPending = true then
    [s.noticeOf (.checkpointTaken k ((s.station k).stack.length + 1) (s.station k).context.displayed point)]
  else []

theorem ended_takePush {k : StationId} {e : EndState} {s u : State} (drawn : Drawn (s.ended k e) u) (point : PushPoint) :
    Drawn (s.endPushed k e) (u.takePush k point).1 ∧ (u.takePush k point).2 = s.endTaken k point := by
  obtain ⟨_, _, record⟩ := ended_station k e s
  have record := (drawn.station k).trans record
  have clock : u.clock = s.clock := drawn.moves.framed.clock.trans (ended_clock k e s)
  unfold State.takePush State.endPushed State.endTaken
  simp only [record]
  split
  · exact ⟨drawn.mapStation k Station.push, by simp only [State.noticeOf, State.now, clock]⟩
  · exact ⟨drawn, rfl⟩

/-- R37, R57 to R60, R129: station k enters an end state. -/
theorem enterEnd_spec (k : StationId) (e : EndState) (s : State) :
    ∃ (point : PushPoint) (u : State),
      (point = .ended e ∨ (e = .cleared ∧ point = .quiet ∧ ∀ l, s.contactOf k l ≠ .pressing)) ∧
      Drawn (s.endPushed k e) u ∧
      s.enterEnd k e = ((u.endTrigger k e).1, s.endNotice k e ++ s.endTaken k point ++ (u.endTrigger k e).2) := by
  obtain ⟨drawn, at_⟩ := endPoint_spec k e (s.ended k e)
  obtain ⟨pushed, taken⟩ := ended_takePush drawn ((s.ended k e).endPoint k e).1
  simp only [ended_contactOf] at at_
  refine ⟨_, _, at_, pushed, ?_⟩
  rw [← taken, ← ended_endNotice k e s]
  rfl

/-! ### The end event (R37, R146) -/

/-- R37, R146: the end event goes to song control, and the reports of the end with it or before it. -/
theorem endStation_eq (k : StationId) (e : EndState) (s : State) :
    s.endStation k e =
      ((s.enterEnd k e).1.mapSong fun g => { g with ends := g.ends ++ [(k, e)] }).offerNowOrLater (s.enterEnd k e).2 :=
  rfl

theorem offerNowOrLater_nil (s : State) : s.offerNowOrLater [] = s := rfl

/-- R146: reports of a transition go on their way, or are offered now in some order (log 6). -/
theorem offerNowOrLater_spec {rs : List Report} (some : rs ≠ []) (s : State) :
    ∃ u, Drawn s u ∧
      (s.offerNowOrLater rs = (u.mapLink fun l => { l with held := l.held ++ rs }) ∨
        ∃ order : List Report, order.Perm rs ∧ s.offerNowOrLater rs = order.foldl (fun t r => t.offer r) u) := by
  unfold State.offerNowOrLater
  have drawn : Drawn s (s.choose 2).2 := drawn_of_eq (choose_snd 2 s)
  split
  · exact absurd rfl some
  · split <;> (rename_i chosen; rw [chosen] at drawn)
    · obtain ⟨order, u, perm, later, offered⟩ := offerAny_spec rs _
      exact ⟨u, drawn.trans later, .inr ⟨order, perm, offered⟩⟩
    · exact ⟨_, drawn, .inl rfl⟩

theorem checkCleared_iff {s : State} {k : StationId} :
    (s.playing k && (s.station k).endPassed && (s.station k).queue.isEmpty) = true ↔
      (s.station k).state = .playing ∧ (s.station k).endPassed = true ∧ (s.station k).queue = [] := by
  simp [State.playing, and_assoc]

/-! ### The abort by song control (R145) -/

/-- R145: the stations of an abort, as one fold that gathers their reports. -/
theorem abortStations_eq_foldl (ks : List StationId) (s : State) :
    abortStations ks s = ks.foldl (fun (acc : State × List Report) k =>
      let x := acc.1.enterEnd k .aborted
      (x.1, acc.2 ++ x.2)) (s, []) := by
  have key : ∀ (ks : List StationId) (rs : List Report) (s : State),
      ks.foldl (fun (acc : State × List Report) k =>
        let x := acc.1.enterEnd k .aborted
        (x.1, acc.2 ++ x.2)) (s, rs) = ((abortStations ks s).1, rs ++ (abortStations ks s).2) := by
    intro ks
    induction ks with
    | nil => intro rs s; simp [abortStations]
    | cons k ks ih =>
      intro rs s
      rw [List.foldl_cons, ih]
      simp only [abortStations, List.append_assoc]
  rw [key, List.nil_append]

theorem abortSong_eq (cause : FinishCause) (s : State) :
    s.abortSong cause =
      ((abortStations s.armedPlaying s).1.mapSong (Song.finish cause (s.song.halt.ms s.refTime))).offerAny
        ((abortStations s.armedPlaying s).2 ++ [s.noticeOf (.songFinished cause s.clock.measure)]) := by
  obtain ⟨time, song, _, _⟩ := abortStations_spec s.armedPlaying s
  have clock := (abortStations_moves s.armedPlaying s).framed.clock
  unfold State.abortSong
  simp only [State.finishedNotice, State.noticeOf, State.now, State.mapSong_song, State.mapSong_clock, Song.finish, time,
    clock]
  rw [song]

/-- Settles O42: `enterEnd_spec` for the three ends, `offerNowOrLater_spec` for what an end hands on, and `abortSong_eq` for
the abort. -/
theorem stationEndsAndWhatTheyHandOn : Obligations.StationEndsAndWhatTheyHandOn := by
  unfold Obligations.StationEndsAndWhatTheyHandOn
  refine ⟨fun k e s => ?_, fun k e s => ⟨fun none => ?_, fun some => offerNowOrLater_spec some _, fun playing passed empty =>
    if_pos (checkCleared_iff.mpr ⟨playing, passed, empty⟩), fun not => if_neg fun all => ?_⟩, fun k c n s => countUp_fits,
    fun cause s => ?_, fun more k e r s => ⟨rfl, rfl, rfl, rfl⟩⟩
  · obtain ⟨point, u, at_, drawn, entered⟩ := enterEnd_spec k e s
    rw [State.endPushed, ended_eq] at drawn
    cases e with
    | cleared => exact ⟨point, u, at_, drawn, nofun, fun _ => entered⟩
    | failed => exact ⟨point, u, at_, drawn, nofun, fun _ => entered⟩
    | aborted =>
      exact ⟨point, u, at_, drawn, fun _ => entered.trans (congrArg _ (List.append_nil _)), fun other => absurd rfl other⟩
  · rw [endStation_eq, none, offerNowOrLater_nil]
  · obtain ⟨playing, passed, empty⟩ := checkCleared_iff.mp all
    rcases not with other | notPassed | queued
    · exact other playing
    · exact absurd (notPassed.symm.trans passed) nofun
    · exact queued empty
  · obtain ⟨order, u, perm, drawn, offered⟩ := offerAny_spec
      ((abortStations s.armedPlaying s).2 ++ [s.noticeOf (.songFinished cause s.clock.measure)])
      ((abortStations s.armedPlaying s).1.mapSong (Song.finish cause (s.song.halt.ms s.refTime)))
    rw [← abortSong_eq] at offered
    rw [abortStations_eq_foldl] at perm drawn
    exact ⟨order, u, perm, drawn, offered⟩

end Sys2Proof.Machine
end

section
/-! SUPPORT. A result given to a station (R83 to R86): what it leaves of the station record, and what it offers in which
order. -/

namespace Sys2Proof.Machine

/-! ### The record of a station that has ended -/

theorem index_ne_stepsDrained {c : CountKind} (other : c ≠ .stepsDrained) :
    c.index ≠ CountKind.stepsDrained.index := by
  cases c with
  | stepsDrained => exact absurd rfl other
  | _ => decide

theorem index_ne_minesDrained {c : CountKind} (other : c ≠ .minesDrained) :
    c.index ≠ CountKind.minesDrained.index := by
  cases c with
  | minesDrained => exact absurd rfl other
  | _ => decide

/-- R57, R83: what the end of a station leaves of its record: its context, and every chart count but those of the drain. -/
structure EndRecord (e : EndState) (a b : Station) : Prop where
  state : b.state = e.station
  queue : b.queue = []
  holds : b.holds = []
  heldCloses : b.heldCloses = []
  context : b.context = a.context
  counts : ∀ c : CountKind, c ≠ .stepsDrained → c ≠ .minesDrained → b.counts[c.index] = a.counts[c.index]

theorem ended_record (k : StationId) (e : EndState) (s : State) :
    EndRecord e (s.station k) ((s.ended k e).station k) := by
  obtain ⟨steps, mines, record⟩ := ended_station k e s
  rw [record]
  refine ⟨rfl, rfl, rfl, rfl, rfl, fun c notSteps notMines => ?_⟩
  rw [getElem_set_fin, if_neg (index_ne_minesDrained notMines), getElem_set_fin,
    if_neg (index_ne_stepsDrained notSteps)]

theorem EndRecord.push {e : EndState} {a b : Station} (h : EndRecord e a b) : EndRecord e a b.push :=
  ⟨h.state, h.queue, h.holds, h.heldCloses, h.context, h.counts⟩

theorem endPushed_record (k : StationId) (e : EndState) (s : State) :
    EndRecord e (s.station k) ((s.endPushed k e).station k) := by
  unfold State.endPushed
  split
  · rw [State.station_mapStation_same]
    exact (ended_record k e s).push
  · exact ended_record k e s

theorem endStation_record (k : StationId) (e : EndState) (s : State) :
    EndRecord e (s.station k) ((s.endStation k e).station k) := by
  obtain ⟨point, u, _, drawn, entered⟩ := enterEnd_spec k e s
  rw [endStation_eq, (offerNowOrLater_aside _ _).station k, State.station_mapSong, entered,
    (endTrigger_aside k e u).station k, drawn.station k]
  exact endPushed_record k e s

/-! ### The steps of a result (R83) -/

/-- What an update of the entries, as a result is given, leaves of its station. -/
def KeepsRecord (update : Station → Station) : Prop :=
  ∀ st, (update st).state = st.state ∧ (update st).context = st.context ∧ (update st).noFail = st.noFail ∧
    (update st).counts = st.counts ∧ (update st).pushPending = st.pushPending ∧
    (update st).reportLevel = st.reportLevel

/-- R83, steps 1 and 2: the entries are updated, and the result counts. -/
def State.tallied (k : StationId) (g : Given) (update : Station → Station) (s : State) : State :=
  (s.mapStation k update).countUp k g.count g.countBy

/-- R83, step 3: the result is applied, and a first saturation offers SCORE_OVF (R114). -/
def State.warned (k : StationId) (g : Given) (update : Station → Station) (s : State) : State :=
  (s.tallied k g update).applyGiven k g.kind

/-- R83: the RESULT trigger raised. -/
def State.resultRaised (k : StationId) (g : Given) (update : Station → Station) (s : State) : State × List Report :=
  (s.warned k g update).raise (.result k g.kind g.lanes)

/-- R83 to R86: the report and what the trigger leads to have been offered. -/
def State.reported (k : StationId) (g : Given) (update : Station → Station) (s : State) : State :=
  (s.resultRaised k g update).1.offerStreams [(s.warned k g update).resultReports k g, (s.resultRaised k g update).2]

theorem giveResult_not_playing {k : StationId} {s : State} (idle : (s.station k).state ≠ .playing) (g : Given)
    (update : Station → Station) : s.giveResult k g update = s := if_neg (mt of_decide_eq_true idle)

section
variable {k : StationId} {g : Given} {update : Station → Station} {s : State}

theorem tallied_station (keeps : KeepsRecord update) :
    ∃ v, (((s.station k).counts[g.count.index]).toNat + g.countBy ≤ 4294967295 →
        v = (s.station k).counts[g.count.index] + BitVec.ofNat 32 g.countBy) ∧
      (s.tallied k g update).station k =
        { update (s.station k) with counts := (s.station k).counts.set g.count.index v } := by
  obtain ⟨_, _, _, counts, _, _⟩ := keeps (s.station k)
  obtain ⟨v, value, record⟩ := countUp_station k g.count g.countBy (s.mapStation k update)
  rw [State.station_mapStation_same, counts] at value record
  exact ⟨v, value, record⟩

theorem tallied_framed : Framed id s (s.tallied k g update) :=
  Framed.then_inner (t := s.mapStation k update) ⟨⟨rfl, rfl, rfl, rfl⟩, rfl, rfl, rfl⟩ (countUp_moves _ _ _ _)

/-- R109: the result is applied to the context as it was, by the tables in force. -/
theorem tallied_applied (keeps : KeepsRecord update) (kind : ResultKind) :
    (s.tallied k g update).applied k kind = s.applied k kind := by
  obtain ⟨_, _, record⟩ := tallied_station (k := k) (g := g) (s := s) keeps
  obtain ⟨_, context, noFail, _, _, _⟩ := keeps (s.station k)
  obtain ⟨⟨_, scoring, ladder, _⟩, _, _, _⟩ := tallied_framed (k := k) (g := g) (update := update) (s := s)
  rw [State.applied, scoring, ladder, record, State.applied]
  simp only [context, noFail]

/-- R83: the whole of a result given while PLAYING. -/
theorem giveResult_playing (keeps : KeepsRecord update) (playing : (s.station k).state = .playing) :
    s.giveResult k g update =
      if (s.applied k g.kind).failed then (s.reported k g update).endStation k .failed
      else (s.reported k g update).checkCleared k := by
  rw [← tallied_applied (g := g) keeps]
  exact if_pos (decide_eq_true playing)

theorem warned_framed : Framed id s (s.warned k g update) := tallied_framed.then_inner (applyGiven_moves _ _ _)

theorem reported_framed : Framed id s (s.reported k g update) :=
  warned_framed.then_inner ((raise_moves _ _).trans (offerStreams_moves _ _))

theorem giveResult_framed (keeps : KeepsRecord update) (playing : (s.station k).state = .playing) :
    Framed id s (s.giveResult k g update) := by
  rw [giveResult_playing keeps playing]
  split
  · exact reported_framed.then_inner (endStation_moves _ _ _)
  · exact reported_framed.then_inner (checkCleared_moves _ _)

/-- R83, R114: the result applied, and what a first saturation offers. -/
theorem warned_eq (keeps : KeepsRecord update) :
    s.warned k g update =
      ((s.applied k g.kind).overflow.map fun b => Report.notice s.now (.scoreOvf k b)).toList.foldl (fun t r => t.offer r)
        ((s.tallied k g update).mapStation k fun st => { st with context := (s.applied k g.kind).context }) := by
  have clock := (tallied_framed (k := k) (g := g) (update := update) (s := s)).clock
  rw [State.warned, State.applyGiven, tallied_applied keeps]
  cases (s.applied k g.kind).overflow with
  | none => rfl
  | some bound =>
    show State.offer (.notice (s.tallied k g update).now (.scoreOvf k bound)) _ = _
    rw [State.now, clock]
    rfl

theorem warned_station (keeps : KeepsRecord update) :
    (s.warned k g update).station k =
      { (s.tallied k g update).station k with context := (s.applied k g.kind).context } := by
  rw [warned_eq keeps, (offerAll_aside _ _).station k, State.station_mapStation_same]

theorem reported_station : (s.reported k g update).station k = (s.warned k g update).station k :=
  ((raise_aside _ _).trans (offerStreams_aside _ _)).station k

/-- R84, R85: the RESULT report, where the report level is RESULTS. -/
theorem resultReports_eq (keeps : KeepsRecord update) :
    (s.warned k g update).resultReports k g =
      if (s.station k).reportLevel = .results then
        [.result
          { station := k, kind := g.kind, noteId := g.noteId, chartLane := g.chartLane, lanes := g.lanes,
            offset := g.offset, songTime := s.now, comboAfter := (s.applied k g.kind).context.combo,
            displayedAfter := (s.applied k g.kind).context.displayed, lifeAfter := (s.applied k g.kind).context.life,
            rungAfter := (s.applied k g.kind).context.rung }]
      else [] := by
  obtain ⟨_, _, record⟩ := tallied_station (k := k) (g := g) (s := s) keeps
  obtain ⟨_, _, _, _, _, level⟩ := keeps (s.station k)
  have clock := (warned_framed (k := k) (g := g) (update := update) (s := s)).clock
  simp only [State.resultReports, State.resultReport, warned_station keeps, record, level, State.now, clock]
  cases (s.station k).reportLevel <;> rfl

end

/-- Two streams of reports, each in its order, offered in some interleaving. -/
theorem offerStreams_spec (as bs : List Report) (s : State) :
    ∃ (offers : List Report) (u : State), offers.Perm (as ++ bs) ∧ bs.Sublist offers ∧ Drawn s u ∧
      s.offerStreams [as, bs] = offers.foldl (fun t r => t.offer r) u := by
  obtain ⟨offers, cs, count, perm, each, offered⟩ := interleaveAll_spec State.offer [as, bs] s
  exact ⟨offers, { s with choices := cs, choiceCount := count }, by simpa using perm, each bs (by simp), rfl, offered⟩

/-- R58: the check whether a station is cleared leaves it as it is, or ends it. -/
theorem checkCleared_cases (k : StationId) (s : State) :
    s.checkCleared k = s ∨ s.checkCleared k = s.endStation k .cleared := by
  unfold State.checkCleared
  split
  · exact .inr rfl
  · exact .inl rfl

/-- R83: what a result leaves of the record of its station. -/
theorem giveResult_station {k : StationId} {g : Given} {update : Station → Station} {s : State}
    (keeps : KeepsRecord update) (playing : (s.station k).state = .playing) :
    let a := (s.warned k g update).station k
    let b := (s.giveResult k g update).station k
    ((s.applied k g.kind).failed = true → EndRecord .failed a b) ∧
      ((s.applied k g.kind).failed = false → b = a ∨ EndRecord .cleared a b) := by
  intro a b
  have given := giveResult_playing (g := g) keeps playing
  have reported := reported_station (k := k) (g := g) (update := update) (s := s)
  refine ⟨fun failed => ?_, fun goesOn => ?_⟩
  · rw [failed, if_pos rfl] at given
    have ended := endStation_record k .failed (s.reported k g update)
    rwa [← given, reported] at ended
  · rw [goesOn, if_neg Bool.false_ne_true] at given
    rcases checkCleared_cases k (s.reported k g update) with same | cleared
    · exact .inl ((congrArg (State.station · k) (given.trans same)).trans reported)
    · have ended := endStation_record k .cleared (s.reported k g update)
      rw [← cleared, ← given, reported] at ended
      exact .inr ended

/-- R83: the chart count of a result, where its sum fits in the counter. -/
theorem giveResult_count {k : StationId} {g : Given} {update : Station → Station} {s : State}
    (keeps : KeepsRecord update) (playing : (s.station k).state = .playing)
    (fits : ((s.station k).counts[g.count.index]).toNat + g.countBy ≤ 4294967295)
    (notSteps : g.count ≠ .stepsDrained) (notMines : g.count ≠ .minesDrained) :
    ((s.giveResult k g update).station k).counts[g.count.index] =
      (s.station k).counts[g.count.index] + BitVec.ofNat 32 g.countBy := by
  obtain ⟨v, value, record⟩ := tallied_station (k := k) (g := g) (s := s) keeps
  obtain ⟨failed, goesOn⟩ := giveResult_station (g := g) keeps playing
  have counted : ((s.warned k g update).station k).counts[g.count.index] =
      (s.station k).counts[g.count.index] + BitVec.ofNat 32 g.countBy := by
    rw [warned_station keeps, record]
    exact (getElem_set_fin _ _ _ _).trans ((if_pos rfl).trans (value fits))
  cases h : (s.applied k g.kind).failed with
  | true => exact ((failed h).counts g.count notSteps notMines).trans counted
  | false =>
    rcases goesOn h with same | cleared
    · rw [same, counted]
    · exact (cleared.counts g.count notSteps notMines).trans counted

/-- R83: the context of a station after a result is the one the result was applied to. -/
theorem giveResult_context {k : StationId} {g : Given} {update : Station → Station} {s : State}
    (keeps : KeepsRecord update) (playing : (s.station k).state = .playing) :
    ((s.giveResult k g update).station k).context = (s.applied k g.kind).context := by
  obtain ⟨failed, goesOn⟩ := giveResult_station (g := g) keeps playing
  have context : ((s.warned k g update).station k).context = (s.applied k g.kind).context := by
    rw [warned_station keeps]
  cases h : (s.applied k g.kind).failed with
  | true => exact (failed h).context.trans context
  | false =>
    rcases goesOn h with same | cleared
    · rw [same, context]
    · exact cleared.context.trans context

/-- Settles O41: `giveResult_station` for the record, and `offerStreams_spec` for what is offered. -/
theorem resultIsGivenWhilePlaying : Obligations.ResultIsGivenWhilePlaying := by
  unfold Obligations.ResultIsGivenWhilePlaying
  intro k g update s keeps
  refine ⟨fun idle => giveResult_not_playing idle g update, fun playing => ?_⟩
  intro applied t
  obtain ⟨shared, _, clock, scanner⟩ := giveResult_framed (g := g) keeps playing
  obtain ⟨failed, goesOn⟩ := giveResult_station (g := g) keeps playing
  have state : ((s.warned k g update).station k).state = .playing := by
    obtain ⟨_, _, record⟩ := tallied_station (k := k) (g := g) (s := s) keeps
    rw [warned_station keeps, record]
    exact (keeps (s.station k)).1.trans playing
  have stays : applied.failed = false → (t.station k).state = .playing ∨ (t.station k).state = .cleared := fun h =>
    (goesOn h).imp (fun same => (congrArg Station.state same).trans state) fun ended => ended.state
  refine ⟨giveResult_context keeps playing, (giveResult_own k g update s).others, shared, clock, scanner, fun h => ?_,
    stays, giveResult_count keeps playing, ?_⟩
  · obtain ⟨ended, queue, holds, held, _, _⟩ := failed h
    exact ⟨ended, queue, holds, held⟩
  · intro now scored warned raised c report reports
    have sameWarned : warned = s.warned k g update := by
      rw [warned_eq keeps]
      cases h : (s.applied k g.kind).overflow with
      | none => simp only [warned, show applied.overflow = none from h]; rfl
      | some bound => simp only [warned, show applied.overflow = some bound from h]; rfl
    have sameRaised : raised = s.resultRaised k g update := by simp only [raised, sameWarned]; rfl
    have sameReports : reports = (s.warned k g update).resultReports k g := (resultReports_eq keeps).symm
    obtain ⟨offers, u, perm, sub, drawn, offered⟩ := offerStreams_spec reports raised.2 raised.1
    have given : t = if applied.failed = true then (offers.foldl (fun t r => t.offer r) u).endStation k .failed
        else (offers.foldl (fun t r => t.offer r) u).checkCleared k := by
      rw [← offered, sameReports, sameRaised]
      exact giveResult_playing keeps playing
    exact ⟨offers, u, perm, sub, drawn, fun h => by rw [given, if_pos h],
      fun h => by rw [given, h, if_neg Bool.false_ne_true]⟩

end Sys2Proof.Machine
end

section
/-! SUPPORT. NOTES_PUT (R46): the checks of the whole request, its records one at a time, and the delivery of what they
post. -/

namespace Sys2Proof.Machine

/-- A request is answered by what its block answers in the state in which it is taken. -/
theorem answer_congr {take other : State → State × Reply} {s : State} (same : take s = other s) :
    s.answer take = s.answer other := by
  simp only [State.answer, same]

/-- R46: a station whose intake is open to NOTES_PUT. -/
theorem takeNotesPut_intake {b : Byte} {base : Half} {records : List NoteRec} {s u : State} {k : StationId} {n : Nat}
    {refusal : Option Code} (named : b.toNat = k.val)
    (takes : (s.station k).state = .loaded ∨ (s.station k).state = .playing) (opened : (s.station k).endAccepted = false)
    (noPosts : s.outbox = none)
    (taken : State.takeRecords k base records 0 (s.withOutbox (some [])) = (u, n, refusal)) :
    takeNotesPut b base records s =
      ((u.testPush k).closeOutbox none,
        refusal.elim (replyFor (.notesPut b base records) .ok [BitVec.ofNat 8 n]) fun c =>
          replyFor (.notesPut b base records) .partialTaken [BitVec.ofNat 8 n, BitVec.ofNat 8 n, c.byte]) := by
  rcases takes with loaded | playing
  · simp only [takeNotesPut, stationOf_some named, loaded, opened, taken, noPosts, Bool.false_eq_true, if_false]
    cases refusal <;> rfl
  · simp only [takeNotesPut, stationOf_some named, playing, opened, taken, noPosts, Bool.false_eq_true, if_false]
    cases refusal <;> rfl

theorem takeNotesPut_state {b : Byte} {base : Half} {records : List NoteRec} {s : State} {k : StationId}
    (named : b.toNat = k.val) (notLoaded : (s.station k).state ≠ .loaded) (notPlaying : (s.station k).state ≠ .playing) :
    takeNotesPut b base records s = (s, replyFor (.notesPut b base records) .state []) := by
  cases h : (s.station k).state with
  | loaded => exact absurd h notLoaded
  | playing => exact absurd h notPlaying
  | _ => simp only [takeNotesPut, stationOf_some named, h]

theorem takeNotesPut_ended {b : Byte} {base : Half} {records : List NoteRec} {s : State} {k : StationId}
    (named : b.toNat = k.val) (takes : (s.station k).state = .loaded ∨ (s.station k).state = .playing)
    (ended : (s.station k).endAccepted = true) :
    takeNotesPut b base records s = (s, replyFor (.notesPut b base records) .ended []) := by
  rcases takes with loaded | playing
  · simp only [takeNotesPut, stationOf_some named, loaded, ended, if_true]
  · simp only [takeNotesPut, stationOf_some named, playing, ended, if_true]

/-- What a hand-off that is taken alone has posted is delivered in some interleaving of its streams. -/
theorem closeOutbox_spec (o : Option (List Post)) (s : State) :
    ∃ (posts : List Post) (u : State), posts.Perm (postStreams (s.outbox.getD [])).flatten ∧
      (∀ l ∈ postStreams (s.outbox.getD []), l.Sublist posts) ∧ Drawn (s.withOutbox o) u ∧
      s.closeOutbox o = posts.foldl (fun t p => t.takePost p) u := by
  obtain ⟨posts, cs, count, perm, each, delivered⟩ := deliver_spec (postStreams (s.outbox.getD [])) (s.withOutbox o)
  exact ⟨posts, { s.withOutbox o with choices := cs, choiceCount := count }, perm, each, rfl, delivered⟩

section
variable {k : StationId} {base : Half} {r : NoteRec} {rest : List NoteRec} {index : Nat} {s : State}

theorem takeRecords_accepted {n : Incoming} (passes : s.checkRecord k r = .ok n) :
    s.takeRecords k base (r :: rest) index =
      (s.acceptRecord k (base + BitVec.ofNat 16 index) n).takeRecords k base rest (index + 1) := by
  simp only [State.takeRecords, passes]

theorem takeRecords_late (fails : s.checkRecord k r = .error .late) :
    s.takeRecords k base (r :: rest) index = (s.countUp k .lateRefusals 1, index, some .late) := by
  simp only [State.takeRecords, fails]

theorem takeRecords_refused {c : Code} (other : c ≠ .late) (fails : s.checkRecord k r = .error c) :
    s.takeRecords k base (r :: rest) index = (s, index, some c) := by
  cases c with
  | late => exact absurd rfl other
  | _ => simp only [State.takeRecords, fails]

end

/-- Settles O31: `takeNotesPut_intake` for the request, `closeOutbox_spec` for the delivery, and an equation for each
outcome of a record's checks. -/
theorem notesPutTakesRecordsInOrder : Obligations.NotesPutTakesRecordsInOrder := by
  unfold Obligations.NotesPutTakesRecordsInOrder
  refine ⟨fun b base records s ready low high => ?_, closeOutbox_spec, fun k base r rest index s =>
    ⟨rfl, fun n => takeRecords_accepted, takeRecords_late, fun c => takeRecords_refused⟩⟩
  intro i
  have wf : i.wf = true := decide_eq_true ⟨low, high⟩
  refine ⟨fun beyond => congrArg _ (submit_refused wf ready ?_), fun k named =>
    ⟨fun notLoaded notPlaying => congrArg _ (submit_refused wf ready (takeNotesPut_state named notLoaded notPlaying)),
      fun takes ended => congrArg _ (submit_refused wf ready (takeNotesPut_ended named takes ended)),
      fun takes opened => ⟨fun u taken => congrArg Host.Outcome.next ?_, fun u n c taken => congrArg Host.Outcome.next ?_⟩⟩⟩
  · simp only [takeNotesPut, stationOf_none beyond]
    rfl
  all_goals
    obtain ⟨linkOpen, _, _, noPosts⟩ := ready
    exact (submit_open wf linkOpen).trans (answer_congr (takeNotesPut_intake named takes opened noPosts taken))

end Sys2Proof.Machine
end

section
/-! SUPPORT. CHART_OPEN, CHART_CLOSE and STATION_CLEAR (R40 to R42). A cleared station hands on its end event and the notice of
a cancelled push: they change song control, by the natural finish at most, and the link port. -/

namespace Sys2Proof.Machine

/-! ### CHART_OPEN and CHART_CLOSE (R40, R41) -/

theorem openModeOf_some {b : Byte} (low : b.toNat ≤ 1) : openModeOf b = some (if b = 0#8 then .fresh else .carry) := by
  have : b = 0#8 ∨ b = 1#8 := by bv_omega
  rcases this with rfl | rfl <;> rfl

theorem openModeOf_none {b : Byte} (beyond : 1 < b.toNat) : openModeOf b = none := by
  grind [openModeOf]

theorem takeChartOpen_bad {b m : Byte} (bad : 3 < b.toNat ∨ 1 < m.toNat) (s : State) :
    takeChartOpen b m s = (s, replyFor (.chartOpen b m) .badValue []) := by
  unfold takeChartOpen
  split
  · rename_i k mode named opens
    rcases bad with station | mode
    · rw [stationOf_none station] at named
      cases named
    · rw [openModeOf_none mode] at opens
      cases opens
  · rfl

section
variable {b m : Byte} {k : StationId} {s : State}

theorem takeChartOpen_state (named : b.toNat = k.val) (low : m.toNat ≤ 1)
    (open_ : (s.station k).state = .loaded ∨ (s.station k).state = .playing) :
    takeChartOpen b m s = (s, replyFor (.chartOpen b m) .state []) := by
  rcases open_ with loaded | playing
  · simp only [takeChartOpen, stationOf_some named, openModeOf_some low, loaded]
  · simp only [takeChartOpen, stationOf_some named, openModeOf_some low, playing]

/-- R40: CHART_OPEN to a station that has no chart open. -/
theorem takeChartOpen_free (named : b.toNat = k.val) (low : m.toNat ≤ 1) (notLoaded : (s.station k).state ≠ .loaded)
    (notPlaying : (s.station k).state ≠ .playing) :
    takeChartOpen b m s =
      if s.clock.map.isEmpty then (s, replyFor (.chartOpen b m) .noTempo [])
      else (s.mapStation k (Station.opened s.scoring.lifeStart (if m = 0#8 then .fresh else .carry)),
        replyFor (.chartOpen b m) .ok []) := by
  cases h : (s.station k).state with
  | loaded => exact absurd h notLoaded
  | playing => exact absurd h notPlaying
  | _ => simp only [takeChartOpen, stationOf_some named, openModeOf_some low, h]

theorem takeChartClose_state (named : b.toNat = k.val)
    (closed : (s.station k).state = .vacant ∨ (s.station k).state = .playing) :
    takeChartClose b s = (s, replyFor (.chartClose b) .state []) := by
  rcases closed with vacant | playing
  · simp only [takeChartClose, stationOf_some named, vacant]
  · simp only [takeChartClose, stationOf_some named, playing]

theorem takeChartClose_taken (named : b.toNat = k.val) (notVacant : (s.station k).state ≠ .vacant)
    (notPlaying : (s.station k).state ≠ .playing) :
    takeChartClose b s =
      (s.mapStation k fun st => { st.noChart with state := .vacant }, replyFor (.chartClose b) .ok []) := by
  cases h : (s.station k).state with
  | vacant => exact absurd h notVacant
  | playing => exact absurd h notPlaying
  | _ => simp only [takeChartClose, stationOf_some named, h]

end

/-! ### What changes the link port alone -/

/-- What is posted while a hand-off is taken is for the report queue. -/
def State.PostsReports (s : State) : Prop := ∀ p ∈ s.outbox.getD [], p.isReport = true

/-- The link port, the posts and the fields of open choices may differ, and what is posted are reports. -/
structure Reported (s t : State) : Prop where
  rest : t = { s with link := t.link, outbox := t.outbox, choices := t.choices, choiceCount := t.choiceCount }
  posts : s.PostsReports → t.PostsReports

theorem Reported.refl (s : State) : Reported s s := ⟨rfl, id⟩

theorem Reported.trans {s t u : State} (h : Reported s t) (g : Reported t u) : Reported s u := by
  refine ⟨?_, g.posts ∘ h.posts⟩
  rw [g.rest, h.rest]

theorem Drawn.reported {s t : State} (h : Drawn s t) : Reported s t := by
  unfold Drawn at h
  rw [h]
  exact ⟨rfl, id⟩

theorem mapLink_reported (f : LinkPort → LinkPort) (s : State) : Reported s (s.mapLink f) := ⟨rfl, id⟩

theorem takeOffer_reported (r : Report) (s : State) : Reported s (s.takeOffer r) := by
  unfold State.takeOffer
  have drawn : Drawn s (s.choose 2).2 := drawn_of_eq (choose_snd 2 s)
  split
  · exact .refl s
  · split
    · split <;> (rename_i chosen; rw [chosen] at drawn; exact drawn.reported.trans (mapLink_reported _ _))
    · exact mapLink_reported _ s

theorem offer_reported (r : Report) (s : State) : Reported s (s.offer r) := by
  unfold State.offer
  split
  · rename_i ps posted
    refine ⟨rfl, fun reports p mem => ?_⟩
    rcases List.mem_append.mp mem with before | new
    · exact reports p (by rwa [posted])
    · rw [List.mem_singleton.mp new]
      rfl
  · exact takeOffer_reported r s

/-! ### The end event of a cleared station (R146) -/

/-- R146: the song once an end event that fails no station has been taken, if one has: it is finished where it was under way
and no station of the armed set is PLAYING. -/
def State.songEnded (taken : Bool) (s : State) : State :=
  if taken && (s.song.state.underWay && s.armedPlaying.isEmpty) then
    s.mapSong (Song.finish .complete (s.song.halt.ms s.refTime))
  else s

theorem songEnded_finished {s : State} (underWay : s.song.state.underWay = true) (none : s.armedPlaying = []) :
    s.songEnded true = s.mapSong (Song.finish .complete (s.song.halt.ms s.refTime)) :=
  if_pos (by rw [underWay, none]; rfl)

theorem songEnded_goesOn {taken : Bool} {s : State}
    (goesOn : (taken && (s.song.state.underWay && s.armedPlaying.isEmpty)) = false) : s.songEnded taken = s :=
  if_neg (goesOn ▸ Bool.false_ne_true)

theorem songEnded_outbox (taken : Bool) (s : State) : (s.songEnded taken).outbox = s.outbox := by
  unfold State.songEnded
  split <;> rfl

theorem songEnded_reported (taken : Bool) {s t : State} (h : Reported s t) :
    Reported (s.songEnded taken) (t.songEnded taken) := by
  obtain ⟨rest, posts⟩ := h
  have same : (t.song.state.underWay && t.armedPlaying.isEmpty) = (s.song.state.underWay && s.armedPlaying.isEmpty) := by
    rw [rest]
    rfl
  unfold State.songEnded
  rw [same]
  split
  · refine ⟨?_, posts⟩
    rw [rest]
    rfl
  · exact ⟨rest, posts⟩

/-- A song that has finished is not under way: a second end event finds it as it is. -/
theorem songEnded_songEnded (a b : Bool) (s : State) : (s.songEnded a).songEnded b = s.songEnded (a || b) := by
  cases a with
  | false => rfl
  | true =>
    cases finishes : s.song.state.underWay && s.armedPlaying.isEmpty with
    | false =>
      have same : s.songEnded true = s := songEnded_goesOn finishes
      rw [Bool.true_or, same]
      exact songEnded_goesOn (by rw [finishes, Bool.and_false])
    | true =>
      obtain ⟨underWay, none⟩ := Bool.and_eq_true_iff.mp finishes
      rw [Bool.true_or, songEnded_finished underWay (List.isEmpty_iff.mp none)]
      exact songEnded_goesOn (Bool.and_false b)

theorem takeEnd_aborted (s : State) : Reported (s.songEnded true) (s.takeEnd .aborted) := by
  unfold State.takeEnd State.songEnded
  cases underWay : s.song.state.underWay with
  | false => exact .refl s
  | true =>
    cases none : s.armedPlaying.isEmpty with
    | false => exact .refl s
    | true => exact offer_reported _ _

/-- What a clear hands on: the end event of a station, and reports. -/
def HandOff.OfClear (k : StationId) (h : HandOff) : Prop := h = .ended k .aborted ∨ ∃ r, h = .report r

section
variable {k : StationId}

theorem takeHandOff_ofClear {h : HandOff} (clear : h.OfClear k) (s : State) :
    Reported (s.songEnded (decide (HandOff.ended k .aborted = h))) (s.takeHandOff h) := by
  rcases clear with rfl | ⟨r, rfl⟩
  · rw [decide_eq_true rfl]
    exact takeEnd_aborted s
  · exact offer_reported r s

/-- One such hand-off taken, with what it posts gathered. -/
theorem collect_ofClear {h : HandOff} (clear : h.OfClear k) (s : State) :
    Reported (s.songEnded (decide (HandOff.ended k .aborted = h))) (s.collect (State.takeHandOff h)).2 ∧
      ∀ p ∈ (s.collect (State.takeHandOff h)).1, p.isReport = true := by
  obtain ⟨rest, posts⟩ := takeHandOff_ofClear clear (s.withOutbox (some []))
  obtain ⟨ended, _⟩ := songEnded_reported (decide (HandOff.ended k .aborted = h))
    (s := s) (t := s.withOutbox (some [])) ⟨rfl, fun _ => nofun⟩
  refine ⟨⟨?_, fun reports => ?_⟩, posts ?_⟩
  · rw [State.collect, rest, ended]
    rfl
  · rw [State.PostsReports, songEnded_outbox] at reports
    exact reports
  · rw [State.PostsReports, songEnded_outbox]
    nofun

/-- Such hand-offs taken one after another. -/
theorem collectAll_ofClear {hs : List HandOff} (clear : ∀ h ∈ hs, h.OfClear k) (s : State) :
    Reported (s.songEnded (decide (HandOff.ended k .aborted ∈ hs))) (s.collectAll State.takeHandOff hs).2 ∧
      ∀ l ∈ (s.collectAll State.takeHandOff hs).1, ∀ p ∈ l, p.isReport = true := by
  induction hs generalizing s with
  | nil => exact ⟨.refl s, nofun⟩
  | cons h rest ih =>
    obtain ⟨first, posts⟩ := collect_ofClear (clear h (.head _)) s
    obtain ⟨others, more⟩ := ih (fun g mem => clear g (.tail _ mem)) (s.collect (State.takeHandOff h)).2
    refine ⟨?_, fun l mem => ?_⟩
    · have both := (songEnded_reported (decide (HandOff.ended k .aborted ∈ rest)) first).trans others
      simp only [songEnded_songEnded, ← Bool.decide_or, ← List.mem_cons] at both
      exact both
    · rcases List.mem_append.mp mem with of | of
      · have within : ∀ p ∈ l, p ∈ (s.collect (State.takeHandOff h)).1 := by
          simp only [postStreams, triggerStreams, List.mem_cons, List.mem_map] at of
          rcases of with rfl | ⟨c, _, rfl⟩ <;> exact fun p mem => List.mem_of_mem_filter mem
        exact fun p mem => posts p (within p mem)
      · exact more l of

theorem takePost_reported {p : Post} (report : p.isReport = true) (s : State) : Reported s (s.takePost p) := by
  cases p with
  | report r => exact offer_reported r s
  | trigger t c => cases report

theorem takePosts_reported {ps : List Post} (reports : ∀ p ∈ ps, p.isReport = true) (s : State) :
    Reported s (ps.foldl (fun t p => t.takePost p) s) := by
  induction ps generalizing s with
  | nil => exact .refl s
  | cons p ps ih =>
    exact (takePost_reported (reports p (.head _)) s).trans (ih (fun q mem => reports q (.tail _ mem)) _)

/-- What a clear hands on changes the link port and, by the natural finish, song control. -/
theorem takeHandOffs_ofClear {hs : List HandOff} (clear : ∀ h ∈ hs, h.OfClear k) (s : State) :
    Reported (s.songEnded (decide (HandOff.ended k .aborted ∈ hs))) (s.takeHandOffs hs) := by
  obtain ⟨order, cs, count, perm, taken⟩ := takeHandOffs_spec hs s
  obtain ⟨collected, posts⟩ := collectAll_ofClear (fun h mem => clear h (perm.mem_iff.mp mem))
    { s with choices := cs, choiceCount := count }
  obtain ⟨delivered, cs', count', sorted, _, delivers⟩ := deliver_spec
    (State.collectAll State.takeHandOff order { s with choices := cs, choiceCount := count }).1
    (State.collectAll State.takeHandOff order { s with choices := cs, choiceCount := count }).2
  have reports : ∀ p ∈ delivered, p.isReport = true := fun p mem => by
    obtain ⟨l, of, within⟩ := List.mem_flatten.mp (sorted.mem_iff.mp mem)
    exact posts l of p within
  have drawn : Drawn s { s with choices := cs, choiceCount := count } := rfl
  have drawn' : ∀ t : State, Drawn t { t with choices := cs', choiceCount := count' } := fun _ => rfl
  simp only [taken, delivers]
  simp only [perm.mem_iff] at collected
  exact (songEnded_reported _ drawn.reported).trans
    ((collected.trans (drawn' _).reported).trans (takePosts_reported reports _))

end

/-! ### STATION_CLEAR (R42) -/

theorem takeOffer_mapSong (r : Report) (f : Song → Song) (s : State) :
    (s.mapSong f).takeOffer r = (s.takeOffer r).mapSong f := by
  have chosen : (s.mapSong f).choose 2 = ((s.choose 2).1, (s.choose 2).2.mapSong f) := by
    unfold State.choose
    rw [show (s.mapSong f).choices = s.choices from rfl]
    cases s.choices <;> rfl
  simp only [State.takeOffer, chosen, State.mapSong_link]
  split
  · rfl
  · split
    · rcases s.choose 2 with ⟨c, t⟩
      cases c <;> rfl
    · rfl

/-- Song control and the report queue are beside each other. -/
theorem offer_mapSong (r : Report) (f : Song → Song) (s : State) : (s.mapSong f).offer r = (s.offer r).mapSong f := by
  unfold State.offer
  rw [show (s.mapSong f).outbox = s.outbox from rfl]
  cases s.outbox with
  | some ps => rfl
  | none => exact takeOffer_mapSong r f s

theorem enqueue_held (r : Report) (l : LinkPort) : (l.enqueue r).held = l.held := by
  unfold LinkPort.enqueue
  split <;> rfl

theorem beginReport_held (l : LinkPort) : l.beginReport.held = l.held := by
  unfold LinkPort.beginReport
  split
  · rfl
  · split <;> rfl

/-- An offer leaves what is on its way to the report queue. -/
theorem offer_held (r : Report) (s : State) : (s.offer r).link.held = s.link.held := by
  unfold State.offer State.takeOffer
  have drawn : (s.choose 2).2.link = s.link := by rw [choose_snd]
  split
  · rfl
  · split
    · rfl
    · split
      · split <;> (rename_i chosen; rw [chosen] at drawn)
        · exact (enqueue_held r _).trans (congrArg _ drawn)
        · exact ((enqueue_held r _).trans (beginReport_held _)).trans (congrArg _ drawn)
      · exact enqueue_held r _

theorem mapLink_noHeld {s : State} (held : s.link.held = []) : (s.mapLink fun l => { l with held := [] }) = s := by
  rw [State.mapLink, ← held]

/-- The end events on their way have left song control. -/
def State.noEnds (s : State) : State := s.mapSong fun g => { g with ends := [] }

theorem flush_of {s : State} {late : List Report} (held : s.link.held = late) :
    s.flush = ((s.noEnds).mapLink fun l => { l with held := [] }).takeHandOffs
      ((s.song.ends.map fun x => .ended x.1 x.2) ++ late.map .report) := by
  rw [flush_eq, State.due, held]
  rfl

/-- One report of a transition at most is offered now, before what is on its way is taken, or among it (log 6). -/
theorem flush_offered {s : State} (held : s.link.held = []) {rs : List Report} (one : rs = [] ∨ ∃ r, rs = [r]) :
    ∃ (early late : List HandOff) (u : State), early ++ late = rs.map .report ∧ Drawn s.noEnds u ∧
      (s.offerNowOrLater rs).flush = (early.foldl (fun w h => w.takeHandOff h) u).takeHandOffs
        ((s.song.ends.map fun x => .ended x.1 x.2) ++ late) := by
  rcases one with rfl | ⟨r, rfl⟩
  · refine ⟨[], [], s.noEnds, rfl, rfl, ?_⟩
    rw [offerNowOrLater_nil, flush_of held, mapLink_noHeld (s := s.noEnds) held]
    rfl
  · obtain ⟨u, drawn, offered⟩ := offerNowOrLater_spec (List.cons_ne_nil r []) s
    have same : u.link = s.link ∧ u.song = s.song ∧ Drawn s.noEnds u.noEnds := by
      unfold Drawn at drawn ⊢
      rw [drawn]
      exact ⟨rfl, rfl, rfl⟩
    obtain ⟨link, song, noEnds⟩ := same
    rw [← link] at held
    rcases offered with later | ⟨order, perm, now⟩
    · refine ⟨[], [.report r], u.noEnds, rfl, noEnds, ?_⟩
      rw [later, flush_of (late := [r]) (congrArg (· ++ [r]) held), ← song, State.mapLink_song]
      exact congrArg (State.takeHandOffs _) (mapLink_noHeld (s := u.noEnds) held)
    · refine ⟨[.report r], [], u.noEnds, rfl, noEnds, ?_⟩
      rw [List.perm_singleton.mp perm] at now
      have after : (u.offer r).link.held = [] := (offer_held r u).trans held
      have song' : (u.offer r).song = u.song := (offer_aside r u).song
      rw [now, ← song]
      show State.flush (u.offer r) = _
      rw [flush_of after, song', mapLink_noHeld (s := (u.offer r).noEnds) after, State.noEnds, ← offer_mapSong]
      rfl

/-- R178, R179: the reply of a request, where what the request makes ready for an idle transmitter goes before it or after it. -/
theorem answer_drawn (take : State → State × Reply) (s : State) :
    ∃ v, Drawn (take s).1.flush v ∧
      (s.answer take = v.replied (take s).2 ∨
        (((take s).1.flush.link.reports ≠ [] ∨ 0 < (take s).1.flush.link.loss) ∧ s.link.tx = none ∧
          s.answer take = (v.mapLink fun l => { l.beginReport with slot := some (take s).2 }).settle)) := by
  unfold State.answer State.finishReply
  have drawn : Drawn (take s).1.flush ((take s).1.flush.choose 2).2 := drawn_of_eq (choose_snd 2 _)
  dsimp only
  split
  · rename_i raced
    simp only [LinkPort.txIdle, LinkPort.reportReady, Bool.and_eq_true, Option.isNone_iff_eq_none, Bool.or_eq_true,
      Bool.not_eq_true', List.isEmpty_eq_false_iff, decide_eq_true_eq] at raced
    obtain ⟨⟨⟨⟨⟨idle, _⟩, _⟩, _⟩, _⟩, _, ready⟩ := raced
    split <;> (rename_i chosen; rw [chosen] at drawn)
    · exact ⟨_, drawn, .inl rfl⟩
    · exact ⟨_, drawn, .inr ⟨ready, idle, rfl⟩⟩
  · exact ⟨(take s).1.flush, rfl, .inl rfl⟩

theorem settle_slot {s : State} {r : Reply} (full : s.link.slot = some r) : s.settle.link.slot = some r := by
  simp only [State.settle, State.mapLink_link, LinkPort.settle, LinkPort.beginNext, full]
  split
  · rfl
  · exact full

theorem settle_reported (s : State) : Reported s s.settle := mapLink_reported _ s

section
variable {b : Byte} {k : StationId} {s : State}

/-- R42: the end event that a clear of station k hands on. -/
def State.clearEnds (k : StationId) (s : State) : List HandOff :=
  if (s.station k).state = .playing then [.ended k .aborted] else []

/-- R42: the notice of the push that a clear of station k cancels. -/
def State.clearNotices (k : StationId) (s : State) : List Report :=
  if (s.station k).pushPending = true then [s.noticeOf (.checkpointCancelled k)] else []

/-- R42: station k cleared, its end event on its way to song control. -/
def State.clearing (k : StationId) (s : State) : State :=
  (if s.playing k then s.handEnd k .aborted else s).mapStation k Station.cleared

theorem takeStationClear_taken (named : b.toNat = k.val) :
    takeStationClear b s =
      ((s.clearing k).offerNowOrLater (s.clearNotices k), replyFor (.stationClear b) .ok []) := by
  simp only [takeStationClear, stationOf_some named]
  rfl

theorem clearNotices_one : s.clearNotices k = [] ∨ ∃ r, s.clearNotices k = [r] := by
  unfold State.clearNotices
  split
  · exact .inr ⟨_, rfl⟩
  · exact .inl rfl

/-- With no end event on its way, the clear's own is the only one. -/
theorem clearing_ends (ends : s.song.ends = []) :
    ((s.clearing k).song.ends.map fun x => HandOff.ended x.1 x.2) = s.clearEnds k ∧
      (s.clearing k).noEnds = s.mapStation k Station.cleared := by
  have none : s.noEnds = s := by rw [State.noEnds, State.mapSong, ← ends]
  unfold State.clearing State.clearEnds State.playing
  by_cases playing : (s.station k).state = .playing
  · rw [if_pos (decide_eq_true playing), if_pos playing, State.mapStation_song, State.handEnd, State.mapSong_song, ends]
    exact ⟨rfl, congrArg (State.mapStation k Station.cleared) none⟩
  · rw [if_neg (mt of_decide_eq_true playing), if_neg playing, State.mapStation_song, ends]
    exact ⟨rfl, congrArg (State.mapStation k Station.cleared) none⟩

theorem clearing_held : (s.clearing k).link.held = s.link.held := by
  unfold State.clearing
  split <;> rfl

/-- R42: STATION_CLEAR taken, with what it hands on. -/
theorem takeStationClear_flush (ready : s.ready) (named : b.toNat = k.val) :
    ∃ (early late : List HandOff) (u : State), early ++ late = (s.clearNotices k).map .report ∧
      Drawn (s.mapStation k Station.cleared) u ∧
      (takeStationClear b s).1.flush =
        (early.foldl (fun w h => w.takeHandOff h) u).takeHandOffs (s.clearEnds k ++ late) := by
  obtain ⟨_, ends, held, _⟩ := ready
  obtain ⟨early, late, u, parts, drawn, flushed⟩ := flush_offered ((clearing_held (k := k)).trans held) clearNotices_one
  obtain ⟨events, noEnds⟩ := clearing_ends (k := k) ends
  rw [noEnds] at drawn
  rw [events] at flushed
  refine ⟨early, late, u, parts, drawn, ?_⟩
  rw [takeStationClear_taken named]
  exact flushed

theorem takeReports_reported {hs : List HandOff} {rs : List Report} (reports : ∀ h ∈ hs, h ∈ rs.map HandOff.report)
    (s : State) : Reported s (hs.foldl (fun w h => w.takeHandOff h) s) := by
  induction hs generalizing s with
  | nil => exact .refl s
  | cons h hs ih =>
    obtain ⟨r, _, rfl⟩ := List.mem_map.mp (reports h (.head _))
    exact (offer_reported r s).trans (ih (fun g mem => reports g (.tail _ mem)) _)

/-- The end event and the notice of a clear taken: song control may finish the song. -/
theorem takeClear_reported {early late : List HandOff} (parts : early ++ late = (s.clearNotices k).map .report)
    (u : State) :
    Reported (u.songEnded (s.playing k))
      ((early.foldl (fun w h => w.takeHandOff h) u).takeHandOffs (s.clearEnds k ++ late)) := by
  have ofEarly : ∀ h ∈ early, h ∈ (s.clearNotices k).map HandOff.report := fun h mem =>
    parts ▸ List.mem_append_left _ mem
  have ofLate : ∀ h ∈ late, ∃ r, h = .report r := fun h mem => by
    obtain ⟨r, _, same⟩ := List.mem_map.mp (parts ▸ List.mem_append_right early mem)
    exact ⟨r, same.symm⟩
  have noEnd : HandOff.ended k .aborted ∉ late := fun mem => by
    obtain ⟨r, same⟩ := ofLate _ mem
    cases same
  have clear : ∀ h ∈ s.clearEnds k ++ late, h.OfClear k := fun h mem => by
    rcases List.mem_append.mp mem with event | notice
    · unfold State.clearEnds at event
      split at event
      · exact .inl (List.mem_singleton.mp event)
      · cases event
    · exact .inr (ofLate h notice)
  have taken : decide (HandOff.ended k .aborted ∈ s.clearEnds k ++ late) = s.playing k := by
    unfold State.clearEnds State.playing
    by_cases playing : (s.station k).state = .playing
    · simp [playing]
    · simp [playing, noEnd]
  have handed := takeHandOffs_ofClear clear (early.foldl (fun w h => w.takeHandOff h) u)
  rw [taken] at handed
  exact (songEnded_reported _ (takeReports_reported ofEarly u)).trans handed

end

/-- A reply and what it leaves of the state. -/
theorem putReply_reported (f : LinkPort → LinkPort) (r : Reply) (s : State) :
    let t := (s.mapLink fun l => { f l with slot := some r }).settle
    Reported s t ∧ t.link.slot = some r :=
  ⟨(mapLink_reported _ s).trans (settle_reported _), settle_slot rfl⟩

/-- R42: STATION_CLEAR answered. -/
theorem stationClear_spec {b : Byte} {k : StationId} {s : State} (ready : s.ready) (named : b.toNat = k.val) :
    ∃ t, exec (.stationClear b) s = .next t ∧ t.link.slot = some (replyFor (.stationClear b) .ok []) ∧
      Reported ((s.mapStation k Station.cleared).songEnded (s.playing k)) t ∧
      ∃ (early late : List HandOff) (u v : State), early ++ late = (s.clearNotices k).map .report ∧
        Drawn (s.mapStation k Station.cleared) u ∧
        (let x := (early.foldl (fun w h => w.takeHandOff h) u).takeHandOffs (s.clearEnds k ++ late)
         Drawn x v ∧
          (t = v.answered (.stationClear b) .ok [] ∨
            ((x.link.reports ≠ [] ∨ 0 < x.link.loss) ∧ s.link.tx = none ∧
              t = (v.mapLink fun l =>
                { l.beginReport with slot := some (replyFor (.stationClear b) .ok []) }).settle))) := by
  obtain ⟨early, late, u, parts, drawn, flushed⟩ := takeStationClear_flush ready named
  obtain ⟨v, drawn', answered⟩ := answer_drawn (takeStationClear b) s
  have reply : (takeStationClear b s).2 = replyFor (.stationClear b) .ok [] := by rw [takeStationClear_taken named]
  rw [flushed, reply] at answered
  rw [flushed] at drawn'
  have before : Reported ((s.mapStation k Station.cleared).songEnded (s.playing k)) v :=
    ((songEnded_reported _ drawn.reported).trans (takeClear_reported parts u)).trans drawn'.reported
  refine ⟨s.answer (takeStationClear b), congrArg Host.Outcome.next (submit_open rfl ready.1), ?_, ?_, early, late, u, v,
    parts, drawn, drawn', answered⟩
  all_goals rcases answered with first | ⟨_, _, second⟩
  · rw [first]
    exact (putReply_reported id _ v).2
  · rw [second]
    exact (putReply_reported LinkPort.beginReport _ v).2
  · rw [first]
    exact before.trans (putReply_reported id _ v).1
  · rw [second]
    exact before.trans (putReply_reported LinkPort.beginReport _ v).1

/-! ### What a clear leaves -/

theorem songEnded_rest (taken : Bool) (s : State) : s.songEnded taken = { s with song := (s.songEnded taken).song } := by
  unfold State.songEnded
  split <;> rfl

/-- R42: what a clear of station k leaves, but for the song. -/
theorem clear_rest {k : StationId} {s t : State}
    (h : Reported ((s.mapStation k Station.cleared).songEnded (s.playing k)) t) :
    t.stations = (s.mapStation k Station.cleared).stations ∧ SharedKept s t ∧ t.clock = s.clock ∧ t.scanner = s.scanner ∧
      t.cue = s.cue ∧ t.refTime = s.refTime ∧ t.song = ((s.mapStation k Station.cleared).songEnded (s.playing k)).song := by
  obtain ⟨rest, _⟩ := h
  rw [songEnded_rest] at rest
  rw [rest]
  exact ⟨rfl, ⟨rfl, rfl, rfl, rfl⟩, rfl, rfl, rfl, rfl, rfl⟩

section
variable {k : StationId} {s : State}

/-- R42, R146: a cleared station is not PLAYING, and the others are as they were. -/
theorem mem_armedPlaying_cleared {j : StationId} :
    j ∈ (s.mapStation k Station.cleared).armedPlaying ↔
      j ≠ k ∧ s.song.armed.getLsbD j.val = true ∧ (s.station j).state = .playing := by
  rw [mem_armedPlaying, State.mapStation_song, State.station_mapStation]
  by_cases same : j = k
  · rw [if_pos same]
    simp [same, Station.cleared]
  · rw [if_neg same]
    simp [same, StationSet.has]

theorem underWay_iff {g : SongState} : g.underWay = true ↔ g = .running ∨ g = .halted := by
  cases g <;> simp [SongState.underWay]

theorem clear_song_notPlaying (idle : (s.station k).state ≠ .playing) :
    ((s.mapStation k Station.cleared).songEnded (s.playing k)).song = s.song := by
  rw [State.playing, decide_eq_false idle]
  rfl

theorem clear_song_notUnderWay (notRunning : s.song.state ≠ .running) (notHalted : s.song.state ≠ .halted) :
    ((s.mapStation k Station.cleared).songEnded (s.playing k)).song = s.song := by
  have idle : s.song.state.underWay = false :=
    eq_false_of_ne_true (mt underWay_iff.mp (not_or.mpr ⟨notRunning, notHalted⟩))
  rw [songEnded_goesOn (by rw [State.mapStation_song, idle, Bool.false_and, Bool.and_false])]
  rfl

theorem clear_song_last (playing : (s.station k).state = .playing)
    (underWay : s.song.state = .running ∨ s.song.state = .halted)
    (last : ∀ j, j ≠ k → s.song.armed.getLsbD j.val = true → (s.station j).state ≠ .playing) :
    ((s.mapStation k Station.cleared).songEnded (s.playing k)).song =
      Song.finish .complete (s.song.halt.ms s.refTime) s.song := by
  have none : (s.mapStation k Station.cleared).armedPlaying = [] := List.eq_nil_iff_forall_not_mem.mpr fun j mem => by
    obtain ⟨other, armed, plays⟩ := mem_armedPlaying_cleared.mp mem
    exact last j other armed plays
  rw [State.playing, decide_eq_true playing, songEnded_finished (s := s.mapStation k Station.cleared) (underWay_iff.mpr underWay) none]
  rfl

theorem clear_song_notLast
    (others : ∃ j, j ≠ k ∧ s.song.armed.getLsbD j.val = true ∧ (s.station j).state = .playing) :
    ((s.mapStation k Station.cleared).songEnded (s.playing k)).song = s.song := by
  obtain ⟨j, plays⟩ := others
  have some : (s.mapStation k Station.cleared).armedPlaying.isEmpty = false :=
    List.isEmpty_eq_false_iff.mpr (List.ne_nil_of_mem (mem_armedPlaying_cleared.mpr plays))
  rw [songEnded_goesOn (by rw [some, Bool.and_false, Bool.and_false])]
  rfl

end

/-- Settles O30: the checks of CHART_OPEN and CHART_CLOSE, and `stationClear_spec` with `clear_rest` for STATION_CLEAR. -/
theorem chartOpenCloseAndStationClear : Obligations.ChartOpenCloseAndStationClear := by
  unfold Obligations.ChartOpenCloseAndStationClear
  refine ⟨fun b s ready => ⟨fun m bad => congrArg _ (submit_refused rfl ready (takeChartOpen_bad bad s)),
    fun beyond => congrArg _ (submit_refused rfl ready ?_), fun k named => ⟨fun m low => ⟨fun open_ => ?_,
      fun notLoaded notPlaying => ?_⟩, fun closed => ?_, fun notVacant notPlaying => ?_⟩⟩,
    fun b s ready => ⟨fun beyond => congrArg _ (submit_refused rfl ready ?_), fun k named => ?_⟩⟩
  · simp only [takeChartClose, stationOf_none beyond]
  · exact congrArg _ (submit_refused rfl ready (takeChartOpen_state named low open_))
  · have free := takeChartOpen_free named low notLoaded notPlaying
    refine ⟨fun none => congrArg _ (submit_refused rfl ready (free.trans (if_pos (List.isEmpty_iff.mpr none)))),
      fun some => ?_⟩
    have taken := free.trans (if_neg (mt List.isEmpty_iff.mp some))
    refine congrArg _ ((submit_station rfl ready taken).trans ?_)
    refine congrArg (State.replied _) (State.mapStation_congr s ?_)
    by_cases fresh : m = 0#8
    · rw [if_pos fresh, if_pos fresh]
      rfl
    · rw [if_neg fresh, if_neg fresh]
      rfl
  · exact congrArg _ (submit_refused rfl ready (takeChartClose_state named closed))
  · exact congrArg _ (submit_station rfl ready (takeChartClose_taken named notVacant notPlaying))
  · simp only [takeStationClear, stationOf_none beyond]
  · obtain ⟨t, taken, slot, reported, handed⟩ := stationClear_spec ready named
    obtain ⟨stations, shared, clock, scanner, cue, time, song⟩ := clear_rest reported
    have station : ∀ j, t.station j = (s.mapStation k Station.cleared).station j := fun j => by
      rw [State.station, stations, State.station]
    have record : t.station k = Station.cleared (s.station k) := (station k).trans (State.station_mapStation_same s k _)
    refine ⟨t, taken, fun j ne => (station j).trans (State.station_mapStation_ne s ne _), shared, clock, scanner, cue, time,
      slot, record, fun idle => song.trans (clear_song_notPlaying idle),
      fun notRunning notHalted => song.trans (clear_song_notUnderWay notRunning notHalted),
      fun playing underWay last => ?_, fun _ others => song.trans (clear_song_notLast others), ?_⟩
    · rw [song, clear_song_last playing underWay last]
      exact ⟨rfl, rfl⟩
    · intro bare ended offered
      have sameBare : bare = s.mapStation k Station.cleared := State.mapStation_congr s record
      have sameOffered : offered = (s.clearNotices k).map .report := by
        simp only [offered, State.clearNotices]
        split <;> rfl
      rw [sameBare, sameOffered]
      exact handed

end Sys2Proof.Machine
end

section
/-! SUPPORT. Contact events and the PRESS that judges (R64, R67, R72 to R74, R81, R91): the grades, the eligible entry, and
where a contact event goes. -/

namespace Sys2Proof.Machine

/-! ### Grades (R64, R81) -/

/-- R64: the bands of the four grades. -/
theorem gradeOf_iff {w : Windows} (first : w.w1 < w.w2) (second : w.w2 < w.w3) (d : Nat) :
    (gradeOf w d = .exact ↔ d ≤ w.w1) ∧ (gradeOf w d = .close ↔ w.w1 < d ∧ d ≤ w.w2) ∧
      (gradeOf w d = .fair ↔ w.w2 < d ∧ d ≤ w.w3) ∧ (gradeOf w d = .rough ↔ w.w3 < d) := by
  unfold gradeOf
  split_ifs <;> simp only [true_iff, false_iff] <;> omega

theorem worse_eq (a b : Grade) : a.worse b = a ∨ a.worse b = b := by
  unfold Grade.worse
  split
  · exact .inr rfl
  · exact .inl rfl

theorem rank_le_worse (a b : Grade) : a.rank ≤ (a.worse b).rank ∧ b.rank ≤ (a.worse b).rank := by
  unfold Grade.worse
  split <;> omega

/-! ### The press that judges (R72 to R74) -/

theorem isStep_on_iff {e : Entry} {l : LaneId} :
    (e.isStep = true ∧ e.lane = some l) ↔ ∃ c, e.body = .tap c l ∨ ∃ tick f, e.body = .hold c l tick f := by
  unfold Entry.isStep Entry.lane
  cases e.body <;> simp

/-- R72, step 3: when an entry is eligible. -/
theorem eligible_iff {st : Station} {w : Windows} {l : LaneId} {t : Int} {e : Entry} :
    st.eligible w l t e = true ↔
      (∃ c, e.body = .tap c l ∨ ∃ tick f, e.body = .hold c l tick f) ∧ (e.state = .queued ∨ e.state = .opened) ∧
        (t - e.frame).natAbs ≤ w.w4 ∧
        (e.isHold = true → ∀ x ∈ st.queue, x.isHold = true → x.lane = some l → x.isJudged = false) := by
  have noneJudged : (!(e.isHold && st.queue.any fun x => x.isHold && decide (x.lane = some l) && x.isJudged)) = true ↔
      (e.isHold = true → ∀ x ∈ st.queue, x.isHold = true → x.lane = some l → x.isJudged = false) := by
    simp only [Bool.not_eq_true', Bool.and_eq_false_imp, List.any_eq_false, Bool.and_eq_true, decide_eq_true_eq, not_and,
      Bool.not_eq_true, and_imp]
  rw [← isStep_on_iff, ← noneJudged]
  simp only [Station.eligible, Bool.and_eq_true, decide_eq_true_eq, and_assoc]
  rfl

section
variable {k : StationId} {l : LaneId} {t : Int} {s : State}

/-- R72, step 2: a press on a lane with a hold goes to that hold. -/
theorem pressSteps_hold {item : HoldItem} (on : (s.station k).holdOn l = some item) : s.pressSteps k l t = s.regrab k item := by
  simp only [State.pressSteps, on]

/-- R72, R73: a press on a lane without a hold judges the earliest eligible entry. -/
theorem pressSteps_judges (free : (s.station k).holdOn l = none) {before after : List Entry} {e : Entry}
    (queue : (s.station k).queue = before ++ e :: after)
    (none : ∀ x ∈ before, (s.station k).eligible s.windows l t x = false)
    (eligible : (s.station k).eligible s.windows l t e = true) : s.pressSteps k l t = s.judge k e t := by
  have found : (s.station k).queue.find? ((s.station k).eligible s.windows l t) = some e :=
    List.find?_eq_some_iff_append.mpr ⟨eligible, before, after, queue, fun x mem => by rw [none x mem]; rfl⟩
  simp only [State.pressSteps, free, found]

/-- R74: a press on a lane without a hold and with no eligible entry is a stray. -/
theorem pressSteps_stray (free : (s.station k).holdOn l = none)
    (none : ∀ x ∈ (s.station k).queue, (s.station k).eligible s.windows l t x = false) :
    s.pressSteps k l t = s.addStray k := by
  have found : (s.station k).queue.find? ((s.station k).eligible s.windows l t) = Option.none :=
    List.find?_eq_none.mpr fun x mem => by rw [none x mem]; exact Bool.false_ne_true
  simp only [State.pressSteps, free, found]

/-! ### Contact events (R67, R91) -/

theorem released_free (free : (s.station k).holdOn l = none) : s.released k l t = s := by
  simp only [State.released, free]

theorem released_hold {item : HoldItem} (on : (s.station k).holdOn l = some item) :
    s.released k l t = s.releaseHold k item t := by
  simp only [State.released, on]

end

section
variable {c : ContactEvent} {s : State}

/-- R67: a contact event is ignored where the station does not play or the song is not under way. -/
theorem takeContact_ignored
    (idle : (s.station c.station).state ≠ .playing ∨ (s.song.state ≠ .running ∧ s.song.state ≠ .halted)) :
    s.takeContact c = s := by
  unfold State.takeContact
  rcases idle with idle | ⟨notRunning, notHalted⟩
  · exact if_neg (mt of_decide_eq_true idle)
  · split
    · split
      · exact absurd ‹_› notRunning
      · exact absurd ‹_› notHalted
      all_goals rfl
    · rfl

theorem takeContact_running (playing : (s.station c.station).state = .playing) (running : s.song.state = .running) :
    s.takeContact c = (s.contactRunning c).testPush c.station := by
  simp only [State.takeContact, State.playing, playing, running, decide_true, if_true]

theorem takeContact_halted (playing : (s.station c.station).state = .playing) (halted : s.song.state = .halted) :
    s.takeContact c = (s.contactHalted c).testPush c.station := by
  simp only [State.takeContact, State.playing, playing, halted, decide_true, if_true]

end

/-- Settles O38: `gradeOf_iff` for the grades, the three outcomes of a press, and where a contact event of each kind goes. -/
theorem contactEventsAndThePressThatJudges : Obligations.ContactEventsAndThePressThatJudges := by
  unfold Obligations.ContactEventsAndThePressThatJudges
  refine ⟨fun w d a b first second => ?_, fun k l t s free => ⟨fun before e after queue none eligible =>
      pressSteps_judges free queue none eligible, pressSteps_stray free, fun e => eligible_iff⟩,
    fun c s => ⟨takeContact_ignored, fun playing running => ?_⟩, fun k l t s => ⟨released_free, fun item on =>
      ⟨released_hold on, pressSteps_hold on⟩⟩⟩
  · obtain ⟨exact, close, fair, rough⟩ := gradeOf_iff first second d
    obtain ⟨left, right⟩ := rank_le_worse a b
    exact ⟨exact, close, fair, rough, worse_eq a b, left, right⟩
  · rw [takeContact_running playing running, State.contactRunning]
    exact ⟨fun kind => by rw [kind], fun cause kind => by rw [kind], fun kind => by rw [kind]⟩

end Sys2Proof.Machine
end

section
/-! SUPPORT. Groups of entries: the group of an entry, the lanes that its close waits on, its heads judged, and its close and
its held close, taken or examined (R51, R70, R71, R73, R76, R80 to R82). The lone TAP. -/

namespace Sys2Proof.Machine

/-! ### The group of an entry (R51) -/

/-- R51: the group of an entry, its chord or itself. -/
theorem group_eq (st : Station) (e : Entry) :
    st.group e =
      st.queue.filter fun x => decide (x.seq = e.seq ∨ (e.chord ≠ none ∧ x.isStep = true ∧ x.tick = e.tick)) := by
  refine List.filter_congr fun x _ => ?_
  rw [Bool.eq_iff_iff, Bool.or_eq_true, decide_eq_true_eq, decide_eq_true_eq, sameChord_iff]

theorem mem_group {st : Station} {e x : Entry} :
    x ∈ st.group e ↔ x ∈ st.queue ∧ (x.seq = e.seq ∨ (e.chord ≠ none ∧ x.isStep = true ∧ x.tick = e.tick)) := by
  rw [group_eq, List.mem_filter, decide_eq_true_eq]

/-- An entry of the queue is found by its serial. -/
theorem entry?_of_mem {st : Station} {e : Entry} (distinct : (st.queue.map Entry.seq).Nodup) (mem : e ∈ st.queue) :
    st.entry? e.seq = some e := by
  obtain ⟨x, found⟩ : ∃ x, st.entry? e.seq = some x :=
    Option.isSome_iff_exists.mp (List.find?_isSome.mpr ⟨e, mem, decide_eq_true rfl⟩)
  rw [found, List.inj_on_of_nodup_map distinct (List.mem_of_find?_eq_some found) mem (entry?_seq found)]

/-- R51: an entry of no chord is alone in its group. -/
theorem group_lone {st : Station} {e : Entry} (distinct : (st.queue.map Entry.seq).Nodup) (mem : e ∈ st.queue)
    (lone : e.chord = none) : st.group e = [e] := by
  have itself : st.group e = st.queue.filter fun x => x = e := by
    rw [group_eq]
    refine List.filter_congr fun x memX => ?_
    have same : x.seq = e.seq ↔ x = e := ⟨List.inj_on_of_nodup_map distinct memX mem, congrArg _⟩
    simp only [lone, ne_eq, not_true, false_and, or_false, same]
  rw [itself, List.filter_eq, List.count_eq_one_of_mem (List.Nodup.of_map _ distinct) mem, List.replicate_one]

theorem someOpen_iff {members : List Entry} : someOpen members = true ↔ ∃ x ∈ members, x.state = .opened := by
  simp only [someOpen, List.any_eq_true, decide_eq_true_eq]

theorem not_someOpen_iff {members : List Entry} : someOpen members = false ↔ ∀ x ∈ members, x.state ≠ .opened := by
  simp only [someOpen, List.any_eq_false, decide_eq_true_eq, ne_eq]

/-! ### The lanes that a close waits on (R70, R71, R76) -/

/-- R70, R71: an OPEN entry whose lane is PRESSING and not carried-in keeps its close from taking effect. -/
def State.entryWaits (s : State) (k : StationId) (e : Entry) : Bool :=
  decide (e.state = .opened) && e.lane.any fun l => s.lanePressing k l && !LaneSet.has (s.station k).carriedIn l

theorem entryWaits_iff {s : State} {k : StationId} {e : Entry} {l : LaneId} (lane : e.lane = some l) :
    s.entryWaits k e = true ↔
      e.state = .opened ∧ s.contactOf k l = .pressing ∧ (s.station k).carriedIn.getLsbD l.val = false := by
  simp only [State.entryWaits, lane, Option.any_some, State.lanePressing, LaneSet.has, Bool.and_eq_true,
    decide_eq_true_eq, Bool.not_eq_true']

/-- The lanes waited on are those of the members that wait. -/
theorem waitingLanes_eq (s : State) (k : StationId) (members : List Entry) :
    s.waitingLanes k members = lanesOf (members.filter (s.entryWaits k)) := by
  unfold State.waitingLanes lanesOf
  rw [List.foldl_filter]
  congr 1
  funext acc e
  unfold State.entryWaits Entry.laneSet
  cases e.lane <;> cases e.state <;> simp

theorem getLsbD_waitingLanes (s : State) (k : StationId) (members : List Entry) (l : LaneId) :
    (s.waitingLanes k members).getLsbD l.val = true ↔
      (∃ x ∈ members, x.state = .opened ∧ x.lane = some l) ∧ s.contactOf k l = .pressing ∧
        (s.station k).carriedIn.getLsbD l.val = false := by
  rw [waitingLanes_eq, getLsbD_lanesOf]
  constructor
  · rintro ⟨x, mem, lane⟩
    obtain ⟨mem, waits⟩ := List.mem_filter.mp mem
    obtain ⟨opened, pressing, notCarried⟩ := (entryWaits_iff lane).mp waits
    exact ⟨⟨x, mem, opened, lane⟩, pressing, notCarried⟩
  · rintro ⟨⟨x, mem, opened, lane⟩, pressing, notCarried⟩
    exact ⟨x, List.mem_filter.mpr ⟨mem, (entryWaits_iff lane).mpr ⟨opened, pressing, notCarried⟩⟩, lane⟩

theorem lanesOf_one (e : Entry) : lanesOf [e] = e.laneSet := BitVec.zero_or

theorem single_ne_zero (l : LaneId) : LaneSet.single l ≠ 0 := fun zero => by
  have bit := getLsbD_single l l
  rw [zero] at bit
  simp at bit

/-! ### The heads of a group judged (R73, R80, R81) -/

section
variable {k : StationId} {e : Entry} {t : Int} {s : State}

/-- R80: a chord member whose fellow is still OPEN is only marked. -/
theorem judge_marks (notQueued : e.state ≠ .queued)
    (fellow : ∃ o ∈ (s.station k).group e, o.seq ≠ e.seq ∧ o.state = .opened) :
    s.judge k e t =
      s.mapStation k (Station.mapEntries [e.seq] fun x =>
        { x with state := .judged (gradeOf s.windows (t - e.frame).natAbs) (t - e.frame) }) := by
  obtain ⟨o, mem, other, opened⟩ := fellow
  have open_ : someOpen (((s.station k).group e).filter fun x => decide (x.seq ≠ e.seq)) = true :=
    someOpen_iff.mpr ⟨o, List.mem_filter.mpr ⟨mem, decide_eq_true other⟩, opened⟩
  simp only [State.judge, if_neg notQueued, if_pos open_]
  rfl

/-- R73, R81: a press that judges the last OPEN member grades the heads of the whole group. -/
theorem judge_last (notQueued : e.state ≠ .queued)
    (last : ∀ x ∈ (s.station k).group e, x.seq ≠ e.seq → x.state ≠ .opened) :
    s.judge k e t =
      s.gradeGroup k ((s.station k).group e) (((s.station k).group e).headD e)
        (worstGrade (gradeOf s.windows (t - e.frame).natAbs)
          (((s.station k).group e).filter fun x => decide (x.seq ≠ e.seq))) (t - e.frame) := by
  have none : ¬ someOpen (((s.station k).group e).filter fun x => decide (x.seq ≠ e.seq)) = true := by
    rw [Bool.not_eq_true, not_someOpen_iff]
    intro x mem
    obtain ⟨mem, other⟩ := List.mem_filter.mp mem
    exact last x mem (of_decide_eq_true other)
  simp only [State.judge, if_neg notQueued, if_neg none]
  rfl

/-! ### The close of a group (R70, R71, R82) -/

theorem step_closeFrame (step : e.isStep = true) (w : Windows) : e.closeFrame w = e.frame + Int.ofNat w.w4 := by
  rw [Entry.closeFrame, step_width step]

theorem closeEvent_before (step : e.isStep = true)
    (before : s.clock.songTime.toInt < e.frame + Int.ofNat s.windows.w4) : s.closeEvent k e = s :=
  if_neg (by rw [step_closeFrame step]; exact Int.not_le.mpr before)

theorem closeEvent_due (step : e.isStep = true)
    (due : e.frame + Int.ofNat s.windows.w4 ≤ s.clock.songTime.toInt) : s.closeEvent k e = s.closeSteps k e :=
  (if_pos (by rw [step_closeFrame step]; exact due)).trans (if_pos step)

/-- R70, R71: a close has no effect where no member is OPEN, where the entry is not its group's first, or where it is held. -/
theorem closeSteps_idle
    (idle : (∀ x ∈ (s.station k).group e, x.state ≠ .opened) ∨ ((s.station k).group e).head?.map Entry.seq ≠ some e.seq ∨
      ∃ h ∈ (s.station k).heldCloses, h.seq = e.seq) : s.closeSteps k e = s := by
  refine if_pos ?_
  rw [Bool.or_eq_true, Bool.or_eq_true, Bool.not_eq_true', Bool.not_eq_true', not_someOpen_iff, decide_eq_false_iff_not,
    List.any_eq_true]
  simpa only [or_assoc, decide_eq_true_eq] using idle

/-- R70, R71: the close of a group takes effect, or is held. -/
theorem closeSteps_first (opened : ∃ x ∈ (s.station k).group e, x.state = .opened)
    (first : ((s.station k).group e).head?.map Entry.seq = some e.seq)
    (notHeld : ∀ h ∈ (s.station k).heldCloses, h.seq ≠ e.seq) :
    s.closeSteps k e =
      if s.waitingLanes k ((s.station k).group e) ≠ 0 then
        s.mapStation k fun st => { st with
          heldCloses := insertHeld { seq := e.seq, waits := s.waitingLanes k ((s.station k).group e) } st.heldCloses }
      else s.missGroup k ((s.station k).group e) e := by
  refine if_neg ?_
  rw [Bool.or_eq_true, Bool.or_eq_true, Bool.not_eq_true', Bool.not_eq_true', not_someOpen_iff, decide_eq_false_iff_not,
    List.any_eq_true]
  rintro ((none | other) | ⟨h, mem, held⟩)
  · obtain ⟨x, mem, opened⟩ := opened
    exact none x mem opened
  · exact other first
  · exact notHeld h mem (of_decide_eq_true held)

end

/-! ### A held close examined (R76, R88) -/

section
variable {k : StationId} {n : Nat} {left : Bool} {s : State} (playing : (s.station k).state = .playing)
include playing

theorem examineItem_gone (gone : (s.station k).entry? n = none) :
    s.examineItem left k n = s.mapStation k (Station.dropHeld n) := by
  simp only [State.examineItem, State.playing, playing, decide_true, if_true, gone]

/-- R76: an item whose group has no OPEN member is taken off the list. -/
theorem examineItem_over {e : Entry} (found : (s.station k).entry? n = some e)
    (noneOpen : ∀ x ∈ (s.station k).group e, x.state ≠ .opened) :
    s.examineItem left k n = s.mapStation k (Station.dropHeld n) := by
  simp only [State.examineItem, State.playing, playing, decide_true, if_true, found, not_someOpen_iff.mpr noneOpen,
    Bool.not_false]

/-- R76, R88: an item whose group has an OPEN member waits on, or its close takes effect. -/
theorem examineItem_open {e : Entry} (found : (s.station k).entry? n = some e)
    (opened : ∃ x ∈ (s.station k).group e, x.state = .opened) :
    s.examineItem left k n =
      if (if left then 0 else s.waitingLanes k ((s.station k).group e)) ≠ 0 then
        s.mapStation k fun st => { st with
          heldCloses := st.heldCloses.map fun h =>
            if h.seq = n then { h with waits := if left then 0 else s.waitingLanes k ((s.station k).group e) } else h }
      else (s.mapStation k (Station.dropHeld n)).missGroup k ((s.station k).group e) e := by
  simp only [State.examineItem, State.playing, playing, decide_true, if_true, found, someOpen_iff.mpr opened,
    Bool.not_true, Bool.false_eq_true, if_false]

end

/-! ### The lone TAP (R70, R73, R83) -/

section
variable {k : StationId} {e : Entry} {s : State}

/-- The result of a group of one is the result of the entry itself. -/
theorem groupGiven_one (e : Entry) (kind : ResultKind) (offset : Option Int) (count : CountKind) :
    groupGiven [e] e kind offset count = e.given kind offset count := by
  rw [groupGiven, lanesOf_one]
  rfl

theorem gradeGroup_lone (tap : e.isHold = false) (grade : Grade) (offset : Int) :
    s.gradeGroup k [e] e grade offset =
      s.giveResult k (e.given grade.result (some offset) grade.count) fun st => s.joinHolds k [e] (st.settleHeads [e]) := by
  rw [State.gradeGroup, groupGiven_one, List.filter_cons_of_neg (by rw [tap]; exact Bool.false_ne_true)]
  rfl

theorem missGroup_lone (tap : e.isHold = false) :
    s.missGroup k [e] e = s.giveResult k (e.given .miss none .missNotes) (Station.settleHeads [e]) := by
  rw [State.missGroup, groupGiven_one, List.filter_cons_of_neg (by rw [tap]; exact Bool.false_ne_true)]
  rfl

/-- The close of a lone entry waits on its lane. -/
theorem waitingLanes_waits {l : LaneId} (lane : e.lane = some l) (waits : s.entryWaits k e = true) :
    s.waitingLanes k [e] = LaneSet.single l := by
  rw [waitingLanes_eq, List.filter_cons_of_pos waits]
  refine (lanesOf_one e).trans ?_
  rw [Entry.laneSet, lane]

theorem waitingLanes_free (free : s.entryWaits k e = false) : s.waitingLanes k [e] = 0 := by
  rw [waitingLanes_eq, List.filter_cons_of_neg (by rw [free]; exact Bool.false_ne_true)]
  rfl

end

/-- Settles O39: `judge_last` and `closeSteps_first` for a group of one, and `judge_marks` for a chord member. -/
theorem loneTapJudgedOrMissed : Obligations.LoneTapJudgedOrMissed := by
  unfold Obligations.LoneTapJudgedOrMissed
  intro k e c l t s body opened mem distinct
  have tap : e.isHold = false := by rw [Entry.isHold, body]
  have step : e.isStep = true := by rw [Entry.isStep, body]
  have lane : e.lane = some l := by rw [Entry.lane, body]
  have notQueued : e.state ≠ .queued := by rw [opened]; nofun
  refine ⟨fun kind offset count => ?_, fun lone => ?_, fun o memO chord stepO tick other openedO => ?_⟩
  · rw [Entry.given, Entry.laneSet, lane, Entry.chartLane, body]
    rfl
  · have alone := group_lone distinct mem lone
    refine ⟨?_, fun due => ?_, closeEvent_before step⟩
    · rw [judge_last notQueued, alone]
      · rw [List.filter_cons_of_neg (by simp)]
        exact gradeGroup_lone tap _ _
      · rw [alone]
        exact fun x memX other => absurd (congrArg Entry.seq (List.mem_singleton.mp memX)) other
    · have close : (s.station k).heldCloses = [] → s.closeEvent k e =
          if s.waitingLanes k [e] ≠ 0 then
            s.mapStation k fun st => { st with
              heldCloses := insertHeld { seq := e.seq, waits := s.waitingLanes k [e] } st.heldCloses }
          else s.missGroup k [e] e := fun none => by
        rw [closeEvent_due step due, closeSteps_first, alone]
        · rw [alone]
          exact ⟨e, .head _, opened⟩
        · rw [alone]
          rfl
        · rw [none]
          nofun
      refine ⟨fun free none => ?_, fun pressing notCarried none => ?_⟩
      · have notWaits : s.entryWaits k e = false := by
          rw [← Bool.not_eq_true, entryWaits_iff lane]
          rintro ⟨_, pressing, notCarried⟩
          rcases free with other | carried
          · exact other pressing
          · exact absurd (carried.symm.trans notCarried) nofun
        rw [close none, waitingLanes_free notWaits, if_neg (not_not_intro rfl), missGroup_lone tap]
      · have waits := (entryWaits_iff lane).mpr ⟨opened, pressing, notCarried⟩
        rw [close none, waitingLanes_waits lane waits, if_pos (single_ne_zero l)]
        refine State.mapStation_congr s ?_
        rw [none]
        rfl
  · exact judge_marks notQueued ⟨o, mem_group.mpr ⟨memO, .inr ⟨chord, stepO, tick⟩⟩, other, openedO⟩

end Sys2Proof.Machine
end

section
/-! SUPPORT. Heads and held closes: the worst grade of a group, its heads given, the hold list that HOLDs join, and what a PRESS
and a WITHDRAWN do to the closes that wait on their lane (R73, R76 to R78, R81, R89, R90). -/

namespace Sys2Proof.Machine

/-! ### The worst grade (R81) -/

theorem worstGrade_cons_judged {e : Entry} {grade : Grade} {o : Int} (judged : e.state = .judged grade o) (g : Grade)
    (rest : List Entry) : worstGrade g (e :: rest) = worstGrade (g.worse grade) rest := by
  simp only [worstGrade, List.foldl_cons, judged]

theorem worstGrade_cons_other {e : Entry} (other : ∀ grade o, e.state ≠ .judged grade o) (g : Grade) (rest : List Entry) :
    worstGrade g (e :: rest) = worstGrade g rest := by
  rw [worstGrade, List.foldl_cons]
  split
  · exact absurd ‹_› (other _ _)
  all_goals rfl

/-- R81: the worst grade is one of those it is formed of, and none of them is worse. -/
theorem worstGrade_spec (g : Grade) (members : List Entry) :
    (worstGrade g members = g ∨ ∃ x ∈ members, ∃ o, x.state = .judged (worstGrade g members) o) ∧
      g.rank ≤ (worstGrade g members).rank ∧
      ∀ x ∈ members, ∀ grade o, x.state = .judged grade o → grade.rank ≤ (worstGrade g members).rank := by
  induction members generalizing g with
  | nil => exact ⟨.inl rfl, Nat.le_refl _, nofun⟩
  | cons e rest ih =>
    by_cases judged : ∃ grade o, e.state = .judged grade o
    · obtain ⟨grade, o, judged⟩ := judged
      obtain ⟨among, notBelow, none⟩ := ih (g.worse grade)
      obtain ⟨left, right⟩ := rank_le_worse g grade
      rw [worstGrade_cons_judged judged]
      refine ⟨?_, left.trans notBelow, fun x mem other p state => ?_⟩
      · rcases among with same | ⟨x, mem, found⟩
        · rw [same]
          rcases worse_eq g grade with first | second
          · exact .inl first
          · exact .inr ⟨e, .head _, o, by rw [second]; exact judged⟩
        · exact .inr ⟨x, .tail _ mem, found⟩
      · rcases List.mem_cons.mp mem with rfl | mem
        · rw [judged] at state
          injection state with same
          exact same ▸ right.trans notBelow
        · exact none x mem other p state
    · push Not at judged
      obtain ⟨among, notBelow, none⟩ := ih g
      rw [worstGrade_cons_other judged]
      refine ⟨among.imp_right fun ⟨x, mem, found⟩ => ⟨x, .tail _ mem, found⟩, notBelow, fun x mem other p state => ?_⟩
      rcases List.mem_cons.mp mem with rfl | mem
      · exact absurd state (judged other p)
      · exact none x mem other p state

/-- R73, R81: the worst of a press's grade and the grades recorded on the other members. -/
theorem worstGrade_others (g : Grade) (members : List Entry) (n : Nat) :
    let grade := worstGrade g (members.filter fun x => decide (x.seq ≠ n))
    (grade = g ∨ ∃ x ∈ members, ∃ o, x.state = .judged grade o) ∧ g.rank ≤ grade.rank ∧
      ∀ x ∈ members, x.seq ≠ n → ∀ other o, x.state = .judged other o → other.rank ≤ grade.rank := by
  obtain ⟨among, notBelow, none⟩ := worstGrade_spec g (members.filter fun x => decide (x.seq ≠ n))
  refine ⟨among.imp_right fun ⟨x, mem, found⟩ => ⟨x, List.mem_of_mem_filter mem, found⟩, notBelow, fun x mem other => ?_⟩
  exact none x (List.mem_filter.mpr ⟨mem, decide_eq_true other⟩)

/-! ### The heads of a group given (R81, R82) -/

theorem missGroup_eq (k : StationId) (members : List Entry) (first : Entry) (s : State) :
    s.missGroup k members first =
      (members.filter Entry.isHold).foldl
        (fun u x => if (u.station k).state = .playing then u.giveHoldLost k x.seq else u)
        (s.giveResult k (groupGiven members first .miss none .missNotes) (Station.settleHeads members)) := by
  unfold State.missGroup
  simp only [State.playing, decide_eq_true_eq]

/-- R81: each TAP of a settled group leaves the queue, and each HOLD enters HOLDING. -/
theorem settleHeads_queue {st : Station} {members : List Entry} (distinct : (st.queue.map Entry.seq).Nodup)
    (among : ∀ x ∈ members, x ∈ st.queue) :
    (st.settleHeads members).queue = st.queue.filterMap fun x =>
      if x ∈ members then if x.isHold = true then some { x with state := .holding } else none else some x := by
  simp only [Station.settleHeads, Station.without, Station.mapEntries]
  rw [← List.filterMap_eq_map, List.filterMap_filter]
  refine List.filterMap_congr fun x mem => ?_
  have named : ∀ test : Entry → Bool,
      ((members.filter test).map Entry.seq).contains x.seq = true ↔ x ∈ members ∧ test x = true := fun test => by
    rw [List.contains_iff_mem, List.mem_map]
    refine ⟨fun ⟨y, found, same⟩ => ?_, fun found => ⟨x, List.mem_filter.mpr found, rfl⟩⟩
    have found := List.mem_filter.mp found
    rwa [List.inj_on_of_nodup_map distinct (among y found.1) mem same] at found
  simp only [Function.comp_apply, ← Bool.not_eq_true, Bool.not_eq_true', named]
  by_cases member : x ∈ members <;> by_cases hold : x.isHold = true <;> simp [member, hold]

/-! ### The hold list (R89, R90) -/

theorem insertHold_eq (item : HoldItem) (holds : List HoldItem) :
    insertHold item holds = holds.orderedInsert (fun a b => a.lane.val ≤ b.lane.val) item := by
  induction holds with
  | nil => rfl
  | cons h rest ih => rw [insertHold, List.orderedInsert_cons, ih]

theorem insertHold_perm (item : HoldItem) (holds : List HoldItem) : (insertHold item holds).Perm (item :: holds) := by
  rw [insertHold_eq]
  exact List.perm_orderedInsert _ item holds

theorem joinHold_free {item : HoldItem} {holds : List HoldItem} (free : ∀ h ∈ holds, h.lane ≠ item.lane) :
    joinHold item holds = insertHold item holds :=
  if_neg fun taken => by
    obtain ⟨h, mem, same⟩ := List.any_eq_true.mp taken
    exact free h mem (of_decide_eq_true same)

theorem joinHold_taken {item h : HoldItem} {holds : List HoldItem} (mem : h ∈ holds) (same : h.lane = item.lane) :
    joinHold item holds = holds :=
  if_pos (List.any_eq_true.mpr ⟨h, mem, decide_eq_true same⟩)

/-- R89: an item joins where its lane has none. -/
theorem mem_joinHold {item g : HoldItem} {holds : List HoldItem} :
    g ∈ joinHold item holds ↔ g ∈ holds ∨ ((∀ h ∈ holds, h.lane ≠ item.lane) ∧ g = item) := by
  by_cases free : ∀ h ∈ holds, h.lane ≠ item.lane
  · rw [joinHold_free free, (insertHold_perm item holds).mem_iff, List.mem_cons, or_comm]
    exact or_congr_right (and_iff_right free).symm
  · refine ⟨fun mem => .inl ?_, fun mem => ?_⟩
    all_goals
      push Not at free
      obtain ⟨h, memH, same⟩ := free
    · rwa [joinHold_taken memH same] at mem
    · rw [joinHold_taken memH same]
      exact mem.resolve_right fun ⟨allOther, _⟩ => allOther h memH same

/-- After an item has come to join, its lane has an item. -/
theorem joinHold_lane (item : HoldItem) (holds : List HoldItem) : ∃ h ∈ joinHold item holds, h.lane = item.lane := by
  by_cases free : ∀ h ∈ holds, h.lane ≠ item.lane
  · exact ⟨item, mem_joinHold.mpr (.inr ⟨free, rfl⟩), rfl⟩
  · push Not at free
    obtain ⟨h, mem, same⟩ := free
    exact ⟨h, mem_joinHold.mpr (.inl mem), same⟩

/-- R89: joining keeps a hold list in ascending lane order. -/
theorem joinHold_ascends {item : HoldItem} {holds : List HoldItem}
    (ascends : (holds.map fun h => h.lane.val).Pairwise (· ≤ ·)) :
    ((joinHold item holds).map fun h => h.lane.val).Pairwise (· ≤ ·) := by
  unfold joinHold
  split
  · exact ascends
  · rw [insertHold_eq, List.map_orderedInsert _ (· ≤ ·) _ _ _ (fun _ _ => Iff.rfl) (fun _ _ => Iff.rfl)]
    exact ascends.orderedInsert _ _

/-- Items that come to join a hold list, one after another. -/
def joinAll (items holds : List HoldItem) : List HoldItem := items.foldl (fun holds item => joinHold item holds) holds

/-- R89: of several items the first of its lane joins, where the list has none of that lane. -/
theorem mem_joinAll {items holds : List HoldItem} {g : HoldItem} :
    g ∈ joinAll items holds ↔
      g ∈ holds ∨ ((∀ h ∈ holds, h.lane ≠ g.lane) ∧ items.find? (fun i => decide (i.lane = g.lane)) = some g) := by
  induction items generalizing holds with
  | nil => simp [joinAll]
  | cons i rest ih =>
    refine (ih (holds := joinHold i holds)).trans ?_
    by_cases same : i.lane = g.lane
    · have first : (i :: rest).find? (fun i => decide (i.lane = g.lane)) = some i :=
        List.find?_cons_of_pos (decide_eq_true same)
      rw [first, mem_joinHold, Option.some.injEq, ← same]
      refine ⟨?_, fun joins => .inl (joins.imp_right (And.imp_right Eq.symm))⟩
      rintro (joins | ⟨none, _⟩)
      · exact joins.imp_right (And.imp_right Eq.symm)
      · obtain ⟨h, mem, lane⟩ := joinHold_lane i holds
        exact absurd lane (none h mem)
    · rw [List.find?_cons_of_neg (by simpa using same), mem_joinHold]
      have notItem : g ≠ i := fun e => same (congrArg HoldItem.lane e.symm)
      have sameFree : (∀ h ∈ joinHold i holds, h.lane ≠ g.lane) ↔ ∀ h ∈ holds, h.lane ≠ g.lane := by
        refine ⟨fun free h mem => free h (mem_joinHold.mpr (.inl mem)), fun free h mem => ?_⟩
        rcases mem_joinHold.mp mem with mem | ⟨_, rfl⟩
        · exact free h mem
        · exact same
      rw [sameFree]
      simp only [notItem, and_false, or_false]

/-- R90: items of several lanes, none of them taken, all join. -/
theorem joinAll_perm {items holds : List HoldItem} (free : ∀ i ∈ items, ∀ h ∈ holds, h.lane ≠ i.lane)
    (lanes : (items.map HoldItem.lane).Nodup) : (joinAll items holds).Perm (items ++ holds) := by
  induction items generalizing holds with
  | nil => exact .refl _
  | cons i rest ih =>
    rw [List.map_cons, List.nodup_cons] at lanes
    obtain ⟨notIn, lanes⟩ := lanes
    have joined : (joinHold i holds).Perm (i :: holds) := by
      rw [joinHold_free (free i (.head _))]
      exact insertHold_perm i holds
    have stillFree : ∀ j ∈ rest, ∀ h ∈ joinHold i holds, h.lane ≠ j.lane := fun j memJ h memH => by
      rcases List.mem_cons.mp (joined.mem_iff.mp memH) with rfl | memH
      · exact fun same => notIn (same ▸ List.mem_map_of_mem memJ)
      · exact free j (.tail _ memJ) h memH
    exact ((ih stillFree lanes).trans (joined.append_left rest)).trans List.perm_middle

theorem joinAll_ascends {items holds : List HoldItem} (ascends : (holds.map fun h => h.lane.val).Pairwise (· ≤ ·)) :
    ((joinAll items holds).map fun h => h.lane.val).Pairwise (· ≤ ·) := by
  induction items generalizing holds with
  | nil => exact ascends
  | cons i rest ih => exact ih (joinHold_ascends ascends)

/-! ### The HOLDs of a group (R90) -/

theorem laneDown_iff {s : State} {k : StationId} {l : LaneId} :
    s.laneDown k l = true ↔ s.contactOf k l = .down ∨ s.contactOf k l = .releasing := isDown_iff _

/-- R90, R97: the deadline with which a hold starts, by its lane's panel. -/
theorem resumeDeadline_eq (s : State) (k : StationId) (l : LaneId) :
    s.resumeDeadline k l =
      if s.contactOf k l = .down ∨ s.contactOf k l = .releasing then Deadline.none
      else .pending (s.clock.songTime.toInt + Int.ofNat s.windows.lg) := if_congr laneDown_iff rfl rfl

theorem holdItemOf_eq (s : State) (k : StationId) (e : Entry) (l : LaneId) :
    s.holdItemOf k e l = HoldItem.mk l e.seq (s.resumeDeadline k l) := rfl

/-- R90: the hold item of an entry, where it is a HOLD. -/
def State.headItem (s : State) (k : StationId) (e : Entry) : Option HoldItem :=
  match e.body with
  | .hold _ l _ _ => some (s.holdItemOf k e l)
  | .tap _ _ | .mine _ _ | .cueMark _ | .endMark => none

theorem joinHolds_holds (s : State) (k : StationId) (members : List Entry) (st : Station) :
    (s.joinHolds k members st).holds = joinAll (members.filterMap (s.headItem k)) st.holds := by
  unfold State.joinHolds joinAll
  rw [List.foldl_filterMap]
  simp only
  congr 1
  funext holds e
  unfold State.headItem Entry.isHold Entry.lane
  cases e.body <;> rfl

theorem headItem_any {s : State} {k : StationId} {e : Entry} {l : LaneId} :
    (s.headItem k e).any (fun i => decide (i.lane = l)) = true ↔ ∃ c tick f, e.body = .hold c l tick f := by
  unfold State.headItem
  cases e.body <;> simp [holdItemOf_eq]

theorem headItem_hold {s : State} {k : StationId} {e : Entry} {c l : LaneId} {tick : Nat} {f : Int}
    (body : e.body = .hold c l tick f) : s.headItem k e = some (s.holdItemOf k e l) := by
  simp only [State.headItem, body]

/-- The lanes of the items of a group are those of its HOLDs. -/
theorem headItems_lanes (s : State) (k : StationId) (members : List Entry) :
    (members.filterMap (s.headItem k)).map (fun i => some i.lane) = (members.filter Entry.isHold).map Entry.lane := by
  rw [List.map_filterMap, ← List.filterMap_eq_map, List.filterMap_filter]
  congr 1
  funext e
  unfold State.headItem Entry.isHold
  cases body : e.body <;> simp [holdItemOf_eq, Entry.lane, body]

/-- R89, R90: what is in the hold list after the HOLDs of a group have come to join it. -/
theorem mem_joinHolds {s : State} {k : StationId} {members : List Entry} {st : Station} {g : HoldItem} :
    g ∈ (s.joinHolds k members st).holds ↔
      g ∈ st.holds ∨ ((∀ h ∈ st.holds, h.lane ≠ g.lane) ∧
        ∃ before x after, members = before ++ x :: after ∧ (∃ c tick f, x.body = .hold c g.lane tick f) ∧
          (∀ y ∈ before, ∀ c tick f, y.body ≠ .hold c g.lane tick f) ∧ g = s.holdItemOf k x g.lane) := by
  rw [joinHolds_holds, mem_joinAll, List.find?_filterMap]
  refine or_congr_right (and_congr_right fun _ => ?_)
  simp only [Option.bind_eq_some_iff, List.find?_eq_some_iff_append, headItem_any, Bool.not_eq_true',
    ← Bool.not_eq_true]
  constructor
  · rintro ⟨x, ⟨hold, before, after, parts, none⟩, item⟩
    refine ⟨before, x, after, parts, hold, fun y mem c tick f body => none y mem ⟨c, tick, f, body⟩, ?_⟩
    obtain ⟨c, tick, f, body⟩ := hold
    rw [headItem_hold body] at item
    exact (Option.some.inj item).symm
  · rintro ⟨before, x, after, parts, hold, none, item⟩
    refine ⟨x, ⟨hold, before, after, parts, fun y mem ⟨c, tick, f, body⟩ => none y mem c tick f body⟩, ?_⟩
    obtain ⟨c, tick, f, body⟩ := hold
    rw [headItem_hold body, ← item]

/-- R90: HOLDs of several lanes, none of them taken, all join the hold list. -/
theorem joinHolds_all {s : State} {k : StationId} {members : List Entry} {st : Station}
    (free : ∀ x ∈ members, x.isHold = true → ∀ h ∈ st.holds, x.lane ≠ some h.lane)
    (lanes : ((members.filter Entry.isHold).map Entry.lane).Nodup) :
    (s.joinHolds k members st).holds.Perm (members.filterMap (s.headItem k) ++ st.holds) := by
  have named := headItems_lanes s k members
  rw [joinHolds_holds]
  refine joinAll_perm (fun i mem h memH same => ?_) ?_
  · have lane : some i.lane ∈ (members.filter Entry.isHold).map Entry.lane := named ▸ List.mem_map_of_mem mem
    obtain ⟨x, memX, lane⟩ := List.mem_map.mp lane
    obtain ⟨memX, hold⟩ := List.mem_filter.mp memX
    exact free x memX hold h memH (lane.trans (congrArg some same.symm))
  · rw [← named] at lanes
    refine List.Nodup.of_map some ?_
    rwa [List.map_map]

theorem joinHolds_length {s : State} {k : StationId} {members : List Entry} {st : Station}
    (free : ∀ x ∈ members, x.isHold = true → ∀ h ∈ st.holds, x.lane ≠ some h.lane)
    (lanes : ((members.filter Entry.isHold).map Entry.lane).Nodup) :
    (s.joinHolds k members st).holds.length = st.holds.length + (members.filter Entry.isHold).length := by
  have count := congrArg List.length (headItems_lanes s k members)
  rw [List.length_map, List.length_map] at count
  rw [(joinHolds_all free lanes).length_eq, List.length_append, count, Nat.add_comm]

/-! ### The held close list (R76) -/

theorem insertHeld_eq (item : HeldClose) (held : List HeldClose) :
    insertHeld item held = held.orderedInsert (fun a b => a.seq ≤ b.seq) item := by
  induction held with
  | nil => rfl
  | cons h rest ih => rw [insertHeld, List.orderedInsert_cons, ih]

theorem insertHeld_perm (item : HeldClose) (held : List HeldClose) : (insertHeld item held).Perm (item :: held) := by
  rw [insertHeld_eq]
  exact List.perm_orderedInsert _ item held

/-- R76: the held close list stays in queue order. -/
theorem insertHeld_ascends {item : HeldClose} {held : List HeldClose}
    (ascends : (held.map HeldClose.seq).Pairwise (· ≤ ·)) :
    ((insertHeld item held).map HeldClose.seq).Pairwise (· ≤ ·) := by
  rw [insertHeld_eq, List.map_orderedInsert _ (· ≤ ·) _ _ _ (fun _ _ => Iff.rfl) (fun _ _ => Iff.rfl)]
  exact ascends.orderedInsert _ _

/-! ### PRESS and WITHDRAWN (R75, R77, R78, R93) -/

theorem heldDeadline_iff {st : Station} {l : LaneId} :
    st.heldDeadline l = true ↔ ∃ item f, st.holdOn l = some item ∧ item.deadline = .held f := by
  unfold Station.heldDeadline
  cases st.holdOn l with
  | none => simp
  | some item => cases h : item.deadline <;> simp [h]

section
variable {k : StationId} {l : LaneId} {s : State}

theorem pressed_carried (carried : (s.station k).carriedIn.getLsbD l.val = true) (t : Int) :
    s.pressed k l t = s.uncarry k l := if_pos carried

theorem withdrawn_carried (carried : (s.station k).carriedIn.getLsbD l.val = true) : s.withdrawn k l = s.uncarry k l :=
  if_pos carried

/-- R77: the closes that waited on the lane are examined after what the press itself does. -/
theorem pressed_examines (fresh : (s.station k).carriedIn.getLsbD l.val = false) (t : Int) :
    s.pressed k l t = ((s.pressSteps k l t).pressMines k l t).examineAll k ((s.station k).heldOn l) :=
  if_neg (by rw [LaneSet.has, fresh]; exact Bool.false_ne_true)

/-- R78: a WITHDRAWN on which nothing or one thing waits. -/
theorem withdrawn_plain (fresh : (s.station k).carriedIn.getLsbD l.val = false)
    (plain : (s.station k).heldOn l = [] ∨ ¬ (s.station k).heldDeadline l = true) :
    s.withdrawn k l = (s.examineAll k ((s.station k).heldOn l)).withdrawHold k l := by
  refine (if_neg (by rw [LaneSet.has, fresh]; exact Bool.false_ne_true)).trans (if_neg fun both => ?_)
  obtain ⟨waiting, some⟩ := Bool.and_eq_true_iff.mp both
  rcases plain with none | notWaiting
  · rw [none] at some
    cases some
  · exact notWaiting waiting

/-- R78, R93: where a held close and a HELD deadline wait on the lane, either is taken first (log 19). -/
theorem withdrawn_both (fresh : (s.station k).carriedIn.getLsbD l.val = false) (some : (s.station k).heldOn l ≠ [])
    (waiting : (s.station k).heldDeadline l = true) :
    ∃ u, Drawn s u ∧
      (s.withdrawn k l = (u.examineAll k ((s.station k).heldOn l)).withdrawHold k l ∨
        s.withdrawn k l = (u.withdrawHold k l).examineAll k ((s.station k).heldOn l)) := by
  have both : ((s.station k).heldDeadline l && !((s.station k).heldOn l).isEmpty) = true := by
    rw [waiting, Bool.true_and, Bool.not_eq_true', List.isEmpty_eq_false_iff]
    exact some
  have drawn : Drawn s (s.choose 2).2 := drawn_of_eq (choose_snd 2 s)
  refine ⟨(s.choose 2).2, drawn, ?_⟩
  have taken : s.withdrawn k l = match s.choose 2 with
      | (0, u) => (u.examineAll k ((s.station k).heldOn l)).withdrawHold k l
      | (_, u) => (u.withdrawHold k l).examineAll k ((s.station k).heldOn l) :=
    (if_neg (by rw [LaneSet.has, fresh]; exact Bool.false_ne_true)).trans (if_pos both)
  rcases drawnPair : s.choose 2 with ⟨_ | n, u⟩
  · rw [taken, drawnPair]
    exact .inl rfl
  · rw [taken, drawnPair]
    exact .inr rfl

end

/-- Settles O40: the heads of a group judged (`judge_last`, `worstGrade_others`), missed, held and examined; the hold list
(`mem_joinHolds`, `joinHolds_all`); and what a PRESS and a WITHDRAWN examine. -/
theorem headsChordsAndHeldCloses : Obligations.HeadsChordsAndHeldCloses := by
  unfold Obligations.HeadsChordsAndHeldCloses
  refine ⟨fun k e first rest members t s distinct mem group parts => ?_, fun k members s l =>
      ⟨getLsbD_lanesOf members l, getLsbD_waitingLanes s k members l⟩,
    fun k members s st distinct among => ⟨settleHeads_queue distinct among, ?_⟩, fun k l t s => ?_,
    fun item held => ⟨insertHeld_perm item held, insertHeld_ascends⟩, fun k e s step => closeEvent_before step⟩
  · rw [← group_eq] at group
    intro heads holds
    have head : (s.station k).group e = first :: rest := group.symm.trans parts
    have headIs : ((s.station k).group e).head?.map Entry.seq = some first.seq := by rw [head]; rfl
    have found := entry?_of_mem distinct mem
    subst group
    refine ⟨fun notQueued last => ?_, missGroup_eq k _ first s, fun step due => ⟨fun idle => ?_, fun opened same notHeld =>
      ?_⟩, fun playing => ⟨examineItem_over playing found, fun opened => ?_⟩⟩
    · obtain ⟨among, notBelow, none⟩ :=
        worstGrade_others (gradeOf s.windows (t - e.frame).natAbs) ((s.station k).group e) e.seq
      refine ⟨_, among, notBelow, none, (judge_last notQueued last).trans ?_⟩
      rw [show ((s.station k).group e).headD e = first by rw [head]; rfl]
      rfl
    · rw [closeEvent_due step due, closeSteps_idle]
      refine idle.imp_right (Or.imp_left fun other same => other ?_)
      exact Option.some.inj (headIs.symm.trans same)
    · subst same
      rw [closeEvent_due step due, closeSteps_first opened headIs notHeld]
      exact ⟨fun free => if_neg (not_not_intro free), fun waits => if_pos waits⟩
    · have taken := examineItem_open (left := false) playing found opened
      simp only [Bool.false_eq_true, if_false] at taken
      exact ⟨fun free => taken.trans (if_neg (not_not_intro free)), fun waits => taken.trans (if_pos waits)⟩
  · intro a item
    have item_eq : ∀ x l, item x l = s.holdItemOf k x l := fun x l => by
      rw [holdItemOf_eq, resumeDeadline_eq]
    refine ⟨fun g => ?_, fun free lanes => ⟨joinHolds_length free lanes, fun x memX c l tick f body => ?_⟩,
      fun ascends => ?_, fun rises => ?_, rfl⟩
    · simp only [item_eq]
      exact mem_joinHolds
    · rw [item_eq, (joinHolds_all free lanes).mem_iff]
      exact List.mem_append_left _ (List.mem_filterMap.mpr ⟨x, memX, headItem_hold body⟩)
    · rw [show a.holds = _ from joinHolds_holds s k members st]
      exact joinAll_ascends ascends
    · obtain ⟨_, _, _, _, goesOn⟩ := joinHolds_works s k members st
      exact goesOn.holds rises
  · intro held waiting carry
    refine ⟨fun carried => ⟨pressed_carried carried t, withdrawn_carried carried⟩, fun fresh =>
      ⟨pressed_examines fresh t, fun plain => ?_, fun some waits => ?_⟩⟩
    · exact withdrawn_plain fresh (plain.imp_right (mt heldDeadline_iff.mp))
    · exact withdrawn_both fresh some (heldDeadline_iff.mpr waits)

end Sys2Proof.Machine
end

section
/-! SUPPORT. The resume (R88, R97, R142): what the edge hands to the engines, the holds and the held closes as the engine takes
it, and contact events while HALTED (R87). -/

namespace Sys2Proof.Machine

/-! ### The edge that ends an absence (R142) -/

/-- R142: the part as the watch has seen the edge and the song has left HALTED, before anything is announced. -/
def State.resumed (s : State) : State :=
  { s with
    clock := { s.clock with watch := .present, watchTimer := some s.refTime },
    song := { s.song with state := .running, halt := .stopped (min 499 (s.song.halt.ms s.refTime)) } }

/-- R142: CLOCK_BACK, then the resume to the PLAYING stations of the armed set. -/
theorem clockBack_eq (s : State) :
    s.watchEdge.clockBack =
      ((s.resumed.notify (.clockBack (min 499 (s.song.halt.ms s.refTime)))).takeHandOffs
        ((allStations.filter fun k => s.song.armed.getLsbD k.val && decide ((s.station k).state = .playing)).map
          .resume)).flush := by
  have aside := notify_aside (.clockBack (min 499 (s.song.halt.ms s.refTime))) s.resumed
  have playing : (s.resumed.notify (.clockBack (min 499 (s.song.halt.ms s.refTime)))).armedPlaying =
      allStations.filter fun k => s.song.armed.getLsbD k.val && decide ((s.station k).state = .playing) :=
    List.filter_congr fun k _ => by
      rw [State.playing, aside.station k, aside.song]
      rfl
  rw [← playing]
  rfl

/-! ### The engine takes the resume (R88, R97) -/

section
variable {k : StationId} {n : Nat} {s : State}

theorem testPush_idle (idle : (s.station k).state ≠ .playing) : s.testPush k = s :=
  if_neg fun both => idle (of_decide_eq_true (Bool.and_eq_true_iff.mp both).1)

/-- R88, steps 1 and 2: the windows and markers that are due, and the held closes in their order. -/
def State.resumeExamined (k : StationId) (s : State) : State :=
  let opened := (s.openPhase k).markerPhase k
  ((opened.station k).heldCloses.map HeldClose.seq).foldl (fun t n => t.examineAtResume k n) opened

theorem resume_idle (idle : (s.station k).state ≠ .playing) : s.resume k = s := if_neg (mt of_decide_eq_true idle)

/-- R88, R97: a station that still plays when its held closes have been examined takes its holds. -/
theorem resume_playing (playing : (s.station k).state = .playing)
    (still : ((s.resumeExamined k).station k).state = .playing) :
    s.resume k = ((s.resumeExamined k).resumeHolds k).testPush k := by
  refine (if_pos (decide_eq_true playing)).trans ?_
  exact congrArg (State.testPush k) (if_pos (decide_eq_true still))

theorem resume_ended (playing : (s.station k).state = .playing)
    (ended : ((s.resumeExamined k).station k).state ≠ .playing) : s.resume k = s.resumeExamined k := by
  refine (if_pos (decide_eq_true playing)).trans ?_
  exact (congrArg (State.testPush k) (if_neg (mt of_decide_eq_true ended))).trans (testPush_idle ended)

/-- R97: the deadline of every hold, then HOLD_OK for each whose tail has been reached. -/
theorem resumeHolds_eq (k : StationId) (s : State) :
    s.resumeHolds k =
      (s.station k).holds.foldl (fun t h => t.okIfTailReached k h.seq) (s.mapStation k fun st =>
        { st with holds := st.holds.map fun h => { h with
          deadline :=
            if s.contactOf k h.lane = .down ∨ s.contactOf k h.lane = .releasing then .none
            else .pending (s.clock.songTime.toInt + Int.ofNat s.windows.lg) } }) := by
  simp only [State.resumeHolds, resumeDeadline_eq]

theorem tailReached_iff {e : Entry} (found : (s.station k).entry? n = some e) :
    s.tailReached k n = true ↔ e.tailFrame ≤ s.clock.songTime.toInt := by
  rw [State.tailReached, found, Option.any_some, decide_eq_true_eq, State.now]

theorem okIfTailReached_reached {e : Entry} (found : (s.station k).entry? n = some e)
    (playing : (s.station k).state = .playing) (reached : e.tailFrame ≤ s.clock.songTime.toInt) :
    s.okIfTailReached k n = s.giveHoldOk k n :=
  if_pos (Bool.and_eq_true_iff.mpr ⟨decide_eq_true playing, (tailReached_iff found).mpr reached⟩)

theorem okIfTailReached_before {e : Entry} (found : (s.station k).entry? n = some e)
    (before : s.clock.songTime.toInt < e.tailFrame) : s.okIfTailReached k n = s :=
  if_neg fun both => absurd ((tailReached_iff found).mp (Bool.and_eq_true_iff.mp both).2) (Int.not_le.mpr before)

theorem okIfTailReached_skipped (skipped : (s.station k).state ≠ .playing ∨ (s.station k).entry? n = none) :
    s.okIfTailReached k n = s := by
  refine if_neg fun both => ?_
  obtain ⟨playing, reached⟩ := Bool.and_eq_true_iff.mp both
  rcases skipped with idle | gone
  · exact idle (of_decide_eq_true playing)
  · rw [State.tailReached, gone] at reached
    cases reached

/-! ### A held close at the resume (R88, log 34) -/

theorem leftWaiting_iff {st : Station} :
    st.leftWaiting n = true ↔ ∃ h ∈ st.heldCloses, h.seq = n ∧ h.waits = 0 := by
  simp only [Station.leftWaiting, List.any_eq_true, Bool.and_eq_true, decide_eq_true_eq]

/-- R88: an item that still waits on a lane is examined as R76 says. -/
theorem examineAtResume_waiting (waiting : ∀ h ∈ (s.station k).heldCloses, h.seq = n → h.waits ≠ 0) :
    s.examineAtResume k n = s.examine k n := by
  have notLeft : (s.station k).leftWaiting n = false := by
    rw [← Bool.not_eq_true, leftWaiting_iff]
    rintro ⟨h, mem, same, left⟩
    exact waiting h mem same left
  rw [State.examineAtResume, notLeft, State.examine]

/-- R88: an item whose waiting lanes all left PRESSING in the halt takes effect, whatever its lanes show now. -/
theorem examineAtResume_left (left : (s.station k).leftWaiting n = true) :
    s.examineAtResume k n = s.examineItem true k n := by
  rw [State.examineAtResume, left]

theorem examineItem_left {e : Entry} (playing : (s.station k).state = .playing)
    (found : (s.station k).entry? n = some e) (opened : ∃ x ∈ (s.station k).group e, x.state = .opened) :
    s.examineItem true k n = (s.mapStation k (Station.dropHeld n)).missGroup k ((s.station k).group e) e :=
  (examineItem_open playing found opened).trans (if_neg (not_not_intro rfl))

end

/-! ### Contact events while HALTED (R87, R97) -/

/-- R87: the lane leaves the carried-in lanes and those that held closes wait on. -/
theorem contactHalted_leaves {c : ContactEvent} (leaves : c.kind = .press ∨ c.kind = .withdrawn) (s : State) :
    s.contactHalted c =
      s.mapStation c.station fun st => { st with
        carriedIn := st.carriedIn &&& ~~~(1#9 <<< c.lane.val),
        heldCloses := st.heldCloses.map fun h => { h with waits := h.waits &&& ~~~(1#9 <<< c.lane.val) } } := by
  have both : s.contactHalted c =
      (s.uncarry c.station c.lane).mapStation c.station (Station.leavePressing c.lane) := by
    rcases leaves with press | withdrawn
    · rw [State.contactHalted, press]
    · rw [State.contactHalted, withdrawn]
  rw [both, State.uncarry, State.mapStation_mapStation]
  rfl

theorem contactHalted_release {c : ContactEvent} {cause : ReleaseCause} (release : c.kind = .release cause) (s : State) :
    s.contactHalted c = s := by
  rw [State.contactHalted, release]

/-- Settles O23: `clockBack_eq` for the edge, the engine's resume with its holds and held closes, and `contactHalted_leaves`. -/
theorem enginesTakeTheResume : Obligations.EnginesTakeTheResume := by
  unfold Obligations.EnginesTakeTheResume
  refine ⟨fun s halted absent => ?_, fun k s => ⟨rfl, resume_idle, resume_playing, resume_ended, resumeHolds_eq k s,
      fun n e found playing => ⟨okIfTailReached_reached found playing, okIfTailReached_before found⟩,
      fun n => okIfTailReached_skipped⟩,
    fun k n s playing => ⟨examineAtResume_waiting, fun h mem same left => ?_⟩, fun c s playing halted => ?_⟩
  · exact (wclkEdge_resume halted absent).trans (congrArg (fun t => Host.Outcome.next (State.settle t)) (clockBack_eq s))
  · rw [examineAtResume_left (leftWaiting_iff.mpr ⟨h, mem, same, left⟩)]
    exact ⟨examineItem_gone playing, fun e found => ⟨examineItem_over playing found, examineItem_left playing found⟩⟩
  · rw [takeContact_halted playing halted]
    exact ⟨fun cause release => by rw [contactHalted_release release],
      fun leaves => congrArg (State.testPush c.station) (contactHalted_leaves leaves s)⟩

end Sys2Proof.Machine
end

section
/-! SUPPORT. The requests that set the shared tables (R65, R112, R117): their checks, and what each recomputes or clamps. -/

namespace Sys2Proof.Machine

/-! ### WINDOWS_SET (R65) -/

theorem windowsOf_none {r : WindowsRec}
    (bad : r.w1.toNat < 1 ∨ r.w2.toNat ≤ r.w1.toNat ∨ r.w3.toNat ≤ r.w2.toNat ∨ r.w4.toNat ≤ r.w3.toNat ∨
      r.wm.toNat < 1 ∨ r.lg.toNat < 1 ∨ 16777216 < r.lg.toNat) : windowsOf r = none :=
  if_neg (by omega)

theorem takeWindowsSet_active {s : State} (active : s.songActive) (r : WindowsRec) :
    takeWindowsSet r s = (s, replyFor (.windowsSet r) .state []) :=
  if_pos ((active_iff s).mpr active)

theorem takeWindowsSet_bad {s : State} {r : WindowsRec} (idle : ¬ s.songActive) (bad : windowsOf r = none) :
    takeWindowsSet r s = (s, replyFor (.windowsSet r) .badValue []) := by
  refine (if_neg (mt (active_iff s).mp idle)).trans ?_
  rw [bad]

/-- R65: the last close frame, recomputed from the last accepted frame and kind. -/
theorem rewindow_eq (w : Windows) (t : Intake) :
    t.rewindow w = { t with
      lastClose :=
        match t.lastFrame, t.lastKind with
        | some f, some .tap => some (f + Int.ofNat w.w4)
        | some f, some .hold => some (f + Int.ofNat w.w4)
        | some f, some .mine => some (f + Int.ofNat w.wm)
        | some f, some .cueMark => some f
        | some f, some .endMark => some f
        | _, _ => t.lastClose } := by
  rcases t with ⟨lastTick, frame, kind, close, lanes, count, tails, sealedTick, nextSeq⟩
  cases frame with
  | none => rfl
  | some f =>
    cases kind with
    | none => rfl
    | some kind => cases kind <;> rfl

/-- R65: the widths are taken, and every last close frame is recomputed with them. -/
theorem takeWindowsSet_ok {s : State} {r : WindowsRec} {w : Windows} (idle : ¬ s.songActive) (ok : windowsOf r = some w) :
    takeWindowsSet r s =
      ({ s with windows := w, stations := s.stations.map fun st => { st with intake := st.intake.rewindow w } },
        replyFor (.windowsSet r) .ok []) := by
  refine (if_neg (mt (active_iff s).mp idle)).trans ?_
  rw [ok]

/-! ### LADDER_SET (R112) -/

/-- R112: the thresholds rise strictly all along the ladder. -/
theorem thresholdsRise_iff (ladder : List Rung) :
    thresholdsRise ladder = true ↔ ladder.Pairwise fun a b => a.threshold < b.threshold := by
  have trans : IsTrans Rung fun a b => a.threshold < b.threshold := ⟨fun _ _ _ => Nat.lt_trans⟩
  rw [← List.isChain_iff_pairwise]
  induction ladder with
  | nil => simp [thresholdsRise]
  | cons a rest ih =>
    cases rest with
    | nil => simp [thresholdsRise]
    | cons b rest => simp only [thresholdsRise, Bool.and_eq_true, decide_eq_true_eq, List.isChain_cons_cons, ih]

/-- A rung of LADDER_SET, with its fields as numbers. -/
def rungOf (r : RungRec) : Rung := { threshold := r.threshold.toNat, multiplier := r.multiplier.toNat }

/-- R112: the second check of LADDER_SET, on the records as they come. -/
theorem ladderOk_iff (rungs : List RungRec) :
    ladderOk (rungs.map rungOf) = true ↔
      1 ≤ rungs.length ∧ rungs.length ≤ 8 ∧ (∀ r ∈ rungs.head?, r.threshold = 0) ∧
        ((rungs.map rungOf).Pairwise fun a b => a.threshold < b.threshold) ∧
        ∀ r ∈ rungs, 16 ≤ r.multiplier.toNat := by
  have zero : ∀ r : RungRec, (rungOf r).threshold = 0 ↔ r.threshold = 0 := fun r => BitVec.toNat_eq (x := r.threshold) (y := 0) |>.symm
  have byte : ∀ r : RungRec, 16 ≤ (rungOf r).multiplier ∧ (rungOf r).multiplier ≤ 255 ↔ 16 ≤ r.multiplier.toNat := fun r =>
    and_iff_left (Nat.le_of_lt_succ r.multiplier.isLt)
  have head : rungs ≠ [] →
      (((rungs.map rungOf).head?.map Rung.threshold) = some 0 ↔ ∀ r ∈ rungs.head?, r.threshold = 0) := fun some => by
    obtain ⟨r, rest, rfl⟩ := List.exists_cons_of_ne_nil some
    simp [zero]
  simp only [ladderOk, Bool.and_eq_true, decide_eq_true_eq, thresholdsRise_iff, List.all_eq_true, List.length_map,
    List.forall_mem_map, byte, and_assoc]
  refine and_congr_right fun some => and_congr_right fun _ => ?_
  rw [head (List.ne_nil_of_length_pos some)]

theorem takeLadderSet_active {s : State} (active : s.songActive) (rungs : List RungRec) :
    takeLadderSet rungs s = (s, replyFor (.ladderSet rungs) .state []) :=
  if_pos ((active_iff s).mpr active)

theorem takeLadderSet_bad {s : State} {rungs : List RungRec} (idle : ¬ s.songActive)
    (bad : ¬ ladderOk (rungs.map rungOf) = true) :
    takeLadderSet rungs s = (s, replyFor (.ladderSet rungs) .badValue []) :=
  (if_neg (mt (active_iff s).mp idle)).trans (if_neg bad)

theorem takeLadderSet_ok {s : State} {rungs : List RungRec} (idle : ¬ s.songActive)
    (ok : ladderOk (rungs.map rungOf) = true) :
    takeLadderSet rungs s =
      ({ s with
          ladder := rungs.map rungOf,
          stations := s.stations.map fun st =>
            { st with context := { st.context with rung := rungFor (rungs.map rungOf) st.context.combo } } },
        replyFor (.ladderSet rungs) .ok []) :=
  (if_neg (mt (active_iff s).mp idle)).trans (if_pos ok)

/-! ### SCORING_SET (R117) -/

theorem every_iff {α : Type} (p : PerResult α) (f : α → Bool) :
    p.every f = true ↔ ∀ kind : ResultKind, f (p.get kind) = true := by
  simp only [PerResult.every, Bool.and_eq_true, and_assoc]
  refine ⟨fun ⟨exact, close, fair, rough, miss, ok, lost, hit⟩ kind => ?_, fun all => ⟨all .exact, all .close, all .fair,
    all .rough, all .miss, all .holdOk, all .holdLost, all .mineHit⟩⟩
  cases kind <;> assumption

theorem get_map {α β : Type} (p : PerResult α) (f : α → β) (kind : ResultKind) :
    (p.map f).get kind = f (p.get kind) := by
  cases kind <;> rfl

/-- R117: the second check of SCORING_SET. -/
def ScoringOk (r : ScoringRec) : Prop :=
  (∀ kind : ResultKind, -1000 ≤ (r.deltas.get kind).toInt ∧ (r.deltas.get kind).toInt ≤ 1000) ∧
    1 ≤ r.lifeMax.toNat ∧ r.lifeMax.toNat ≤ 1000 ∧ 1 ≤ r.lifeStart.toNat ∧ r.lifeStart.toNat ≤ r.lifeMax.toNat

/-- The tables of SCORING_SET, with their fields as numbers. -/
def numbersOf (r : ScoringRec) : Scoring :=
  { weights := r.weights.map BitVec.toInt, deltas := r.deltas.map BitVec.toInt, lifeMax := r.lifeMax.toNat,
    lifeStart := r.lifeStart.toNat }

theorem scoring_good_iff (r : ScoringRec) :
    ((r.deltas.map BitVec.toInt).every (fun d => decide (-1000 ≤ d ∧ d ≤ 1000)) = true ∧ 1 ≤ r.lifeMax.toNat ∧
      r.lifeMax.toNat ≤ 1000 ∧ 1 ≤ r.lifeStart.toNat ∧ r.lifeStart.toNat ≤ r.lifeMax.toNat) ↔ ScoringOk r := by
  simp only [every_iff, get_map, decide_eq_true_eq, ScoringOk]

theorem scoringOf_good {r : ScoringRec} (good : ScoringOk r) : scoringOf r = some (numbersOf r) :=
  if_pos ((scoring_good_iff r).mpr good)

theorem scoringOf_bad {r : ScoringRec} (bad : ¬ ScoringOk r) : scoringOf r = none :=
  if_neg (mt (scoring_good_iff r).mp bad)

theorem takeScoringSet_active {s : State} (active : s.songActive) (r : ScoringRec) :
    takeScoringSet r s = (s, replyFor (.scoringSet r) .state []) :=
  if_pos ((active_iff s).mpr active)

theorem takeScoringSet_bad {s : State} {r : ScoringRec} (idle : ¬ s.songActive) (bad : ¬ ScoringOk r) :
    takeScoringSet r s = (s, replyFor (.scoringSet r) .badValue []) := by
  refine (if_neg (mt (active_iff s).mp idle)).trans ?_
  rw [scoringOf_bad bad]

/-- R117: the tables are taken, and every live and saved life is clamped to the new life max. -/
theorem takeScoringSet_good {s : State} {r : ScoringRec} (idle : ¬ s.songActive) (good : ScoringOk r) :
    takeScoringSet r s =
      ({ s with
          scoring := numbersOf r,
          stations := s.stations.map fun st =>
            { st with
              context := st.context.clampLife r.lifeMax.toNat,
              stack := st.stack.map (ScoreContext.clampLife r.lifeMax.toNat) } },
        replyFor (.scoringSet r) .ok []) := by
  refine (if_neg (mt (active_iff s).mp idle)).trans ?_
  rw [scoringOf_good good]
  rfl

/-- Settles O35: each request by its checks in their order, with `rewindow_eq`, `ladderOk_iff` and `scoringOf_good`. -/
theorem sharedTablesSet : Obligations.SharedTablesSet := by
  unfold Obligations.SharedTablesSet
  refine ⟨fun s ready => ⟨fun r => ⟨fun active => ?_, fun idle => ⟨fun bad => ?_, fun w1 w2 w3 w4 wm lg max => ?_⟩⟩,
    fun rungs short => ?_⟩, fun r s ready => ⟨fun active => ?_, fun idle bad => ?_, fun idle good => ?_⟩⟩
  · exact congrArg _ (submit_refused rfl ready (takeWindowsSet_active active r))
  · exact congrArg _ (submit_refused rfl ready (takeWindowsSet_bad idle (windowsOf_none bad)))
  · have taken := takeWindowsSet_ok idle (if_pos ⟨w1, w2, w3, w4, wm, lg, max⟩)
    simp only [rewindow_eq] at taken
    exact congrArg _ (submit_eq rfl ready taken rfl rfl rfl rfl rfl)
  · have wf : (Instr.ladderSet rungs).wf = true := decide_eq_true short
    intro ladder good
    have ok : ladderOk ladder = true ↔ good := ladderOk_iff rungs
    refine ⟨fun active => ?_, fun idle bad => ?_, fun idle passes => ?_⟩
    · exact congrArg _ (submit_refused wf ready (takeLadderSet_active active rungs))
    · exact congrArg _ (submit_refused wf ready (takeLadderSet_bad idle (mt ok.mp bad)))
    · exact congrArg _ (submit_eq wf ready (takeLadderSet_ok idle (ok.mpr passes)) rfl rfl rfl rfl rfl)
  · exact congrArg _ (submit_refused rfl ready (takeScoringSet_active active r))
  · exact congrArg _ (submit_refused rfl ready (takeScoringSet_bad idle bad))
  · refine ⟨numbersOf r, congrArg _ (submit_eq rfl ready (takeScoringSet_good idle good) rfl rfl rfl rfl rfl), rfl, rfl,
      fun kind => ⟨get_map _ _ kind, get_map _ _ kind⟩⟩

end Sys2Proof.Machine
end

section
/-! SUPPORT. The holds (R91 to R96): a RELEASE, a PRESS and a WITHDRAWN on a lane with a hold, its tail and its let-go
deadline, and its two results. -/

namespace Sys2Proof.Machine

/-! ### A reached deadline (R93) -/

section
variable {k : StationId} {item : HoldItem} {frame : Int} {s : State}

/-- R93: while the lane is PRESSING the reached deadline is HELD. -/
theorem reachDeadline_pressing (pressing : s.contactOf k item.lane = .pressing) :
    s.reachDeadline k item frame = s.mapStation k (Station.setDeadline item.lane (.held frame)) :=
  if_pos (decide_eq_true pressing)

theorem reachDeadline_lost (notPressing : s.contactOf k item.lane ≠ .pressing) :
    s.reachDeadline k item frame = s.giveHoldLost k item.seq := if_neg (mt of_decide_eq_true notPressing)

end

/-! ### A RELEASE (R91) -/

section
variable {k : StationId} {item : HoldItem} {time : Int} {s : State}

/-- R91: the RELEASE of a hold with no deadline starts one, which may already have been reached. -/
theorem releaseHold_starts (fresh : item.deadline = .none) :
    s.releaseHold k item time =
      if time + Int.ofNat s.windows.lg ≤ s.clock.songTime.toInt then
        (s.mapStation k (Station.setDeadline item.lane (.pending (time + Int.ofNat s.windows.lg)))).reachDeadline k item
          (time + Int.ofNat s.windows.lg)
      else s.mapStation k (Station.setDeadline item.lane (.pending (time + Int.ofNat s.windows.lg))) := by
  simp only [State.releaseHold, fresh]
  rfl

theorem releaseHold_started (started : item.deadline ≠ .none) : s.releaseHold k item time = s := by
  unfold State.releaseHold
  split
  · exact absurd ‹_› started
  all_goals rfl

end

/-! ### A PRESS (R92, R93) -/

section
variable {k : StationId} {item : HoldItem} {frame : Int} {s : State}

theorem regrab_none (fresh : item.deadline = .none) : s.regrab k item = s := by
  simp only [State.regrab, fresh]

theorem regrab_pending (pending : item.deadline = .pending frame) :
    s.regrab k item = s.mapStation k (Station.setDeadline item.lane .none) := by
  simp only [State.regrab, pending]

theorem regrab_held (held : item.deadline = .held frame) :
    s.regrab k item = (s.mapStation k (Station.setDeadline item.lane .none)).okIfTailReached k item.seq := by
  simp only [State.regrab, held]

end

/-! ### The tail, the deadline and a WITHDRAWN, each by the deadline of the item (R93, R95) -/

/-- A deadline changed on a lane leaves the entries of the station as they are. -/
theorem entry?_setDeadline (l : LaneId) (d : Deadline) (n : Nat) (k : StationId) (s : State) :
    ((s.mapStation k (Station.setDeadline l d)).station k).entry? n = (s.station k).entry? n := by
  rw [State.station_mapStation_same]
  rfl

section
variable {k : StationId} {l : LaneId} {item : HoldItem} {frame : Int} {s : State}
  (playing : (s.station k).state = .playing) (on : (s.station k).holdOn l = some item)
include playing on

theorem holdEvent_none (fresh : item.deadline = .none) : s.holdEvent k l = s.okIfTailReached k item.seq := by
  simp only [State.holdEvent, State.playing, playing, decide_true, if_true, on, fresh]

theorem holdEvent_held (held : item.deadline = .held frame) : s.holdEvent k l = s := by
  simp only [State.holdEvent, State.playing, playing, decide_true, if_true, on, held]

/-- R93, R95: a tail that is reached no later than the deadline goes before it. -/
theorem holdEvent_pending {e : Entry} (found : (s.station k).entry? item.seq = some e)
    (pending : item.deadline = .pending frame) :
    s.holdEvent k l =
      if e.tailFrame ≤ s.clock.songTime.toInt ∧ e.tailFrame ≤ frame then s.giveHoldOk k item.seq
      else if frame ≤ s.clock.songTime.toInt then s.reachDeadline k item frame
      else s := by
  simp only [State.holdEvent, State.playing, playing, decide_true, if_true, on, pending, found, Option.all_some,
    Bool.and_eq_true, tailReached_iff found, decide_eq_true_eq]
  rfl

/-- R93: a WITHDRAWN loses a hold whose deadline is HELD. -/
theorem withdrawHold_held (held : item.deadline = .held frame) : s.withdrawHold k l = s.giveHoldLost k item.seq := by
  simp only [State.withdrawHold, State.playing, playing, decide_true, if_true, on, held]

theorem withdrawHold_notHeld (notHeld : item.deadline = .none ∨ item.deadline = .pending frame) :
    s.withdrawHold k l = s := by
  rcases notHeld with deadline | deadline <;>
    simp only [State.withdrawHold, State.playing, playing, decide_true, if_true, on, deadline]

end

/-! ### The two results of a hold (R96) -/

theorem without_one (n : Nat) (st : Station) :
    st.without [n] = { st with queue := st.queue.filter fun x => decide (x.seq ≠ n) } := by
  have same : (fun x : Entry => !([n].contains x.seq)) = fun x => decide (x.seq ≠ n) := by
    funext x
    simp
  rw [Station.without, same]

/-- R96: the entry of a hold result and its item leave. -/
theorem dropHold_eq (n : Nat) :
    Station.dropHold n = fun st : Station =>
      { st with queue := st.queue.filter fun x => decide (x.seq ≠ n),
                holds := st.holds.filter fun h => decide (h.seq ≠ n) } := by
  funext st
  rw [Station.dropHold, without_one]

/-- R84, R96: a result of a HOLD itself carries its own id and lanes. -/
theorem given_hold {e : Entry} {c l : LaneId} {tick : Nat} {tail : Int} (body : e.body = .hold c l tick tail)
    (kind : ResultKind) (offset : Option Int) (count : CountKind) :
    e.given kind offset count =
      { kind := kind, noteId := e.noteId, chartLane := c, lanes := 1#9 <<< l.val, offset := offset, count := count,
        countBy := 1 } := by
  simp only [Entry.given, Entry.chartLane, Entry.laneSet, Entry.lane, body]
  rfl

section
variable {k : StationId} {n : Nat} {e : Entry} {s : State} (found : (s.station k).entry? n = some e)
include found

theorem giveHoldOk_found :
    s.giveHoldOk k n = s.giveResult k (e.given .holdOk none .holdOk) (Station.dropHold n) := by
  simp only [State.giveHoldOk, found]

theorem giveHoldLost_found :
    s.giveHoldLost k n = s.giveResult k (e.given .holdLost none .holdLost) (Station.dropHold n) := by
  simp only [State.giveHoldLost, found]

end

/-- Settles O43: `releaseHold_starts` for a RELEASE, `holdEvent_pending` for the tail and the deadline, the re-grab by the
deadline it finds, and the two results by `given_hold` and `dropHold_eq`. -/
theorem holdDeadlinesAndTails : Obligations.HoldDeadlinesAndTails := by
  unfold Obligations.HoldDeadlinesAndTails
  intro k item e time frame s playing on found due now
  have tailWaits : item.deadline = .pending frame → (now < e.tailFrame ∨ frame < e.tailFrame) →
      s.holdEvent k item.lane = if frame ≤ now then s.reachDeadline k item frame else s := fun pending later =>
    (holdEvent_pending playing on found pending).trans (if_neg (by omega))
  have regrabbed (d : Deadline) : ((s.mapStation k (Station.setDeadline item.lane d)).station k).entry? item.seq = some e :=
    (entry?_setDeadline _ _ _ k s).trans found
  refine ⟨fun fresh before => ?_, fun fresh reached pressing => ?_, fun fresh reached notPressing => ?_,
    releaseHold_started, fun fresh reached => ?_, fun fresh before => ?_, fun pending reached inTime => ?_,
    fun pending later reached notPressing => ?_, fun pending later reached pressing => ?_, holdEvent_held playing on,
    regrab_pending, regrab_none, fun pending later before => ?_, fun held reached => ?_, fun held before => ?_,
    withdrawHold_held playing on, withdrawHold_notHeld playing on, fun c l tick body => ?_⟩
  · exact (releaseHold_starts fresh).trans (if_neg (Int.not_le.mpr before))
  · exact (releaseHold_starts fresh).trans ((if_pos reached).trans (reachDeadline_pressing pressing))
  · exact (releaseHold_starts fresh).trans ((if_pos reached).trans (reachDeadline_lost notPressing))
  · exact (holdEvent_none playing on fresh).trans (okIfTailReached_reached found playing reached)
  · exact (holdEvent_none playing on fresh).trans (okIfTailReached_before found before)
  · exact (holdEvent_pending playing on found pending).trans (if_pos ⟨reached, inTime⟩)
  · exact (tailWaits pending later).trans ((if_pos reached).trans (reachDeadline_lost notPressing))
  · exact (tailWaits pending later).trans ((if_pos reached).trans (reachDeadline_pressing pressing))
  · exact (tailWaits pending later).trans (if_neg (Int.not_le.mpr before))
  · refine (regrab_held held).trans (okIfTailReached_reached (regrabbed .none) ?_ reached)
    rw [State.station_mapStation_same]
    exact playing
  · exact (regrab_held held).trans (okIfTailReached_before (regrabbed .none) before)
  · intro given gone
    have result (kind : ResultKind) (count : CountKind) : e.given kind none count = given kind count :=
      given_hold body kind none count
    have leaves : Station.dropHold item.seq = gone := dropHold_eq item.seq
    rw [giveHoldOk_found found, giveHoldLost_found found, result, result, leaves]
    exact ⟨rfl, rfl⟩

end Sys2Proof.Machine
end

section
/-! SUPPORT. Mines and markers (R99 to R105): a mine opened, hit and avoided, the press that hits it, and a marker due or
passed over. -/

namespace Sys2Proof.Machine

/-! ### The window of a mine (R99, R101, R102) -/

section
variable {k : StationId} {e : Entry} {c l : LaneId} {s : State} (body : e.body = .mine c l)
include body

theorem mine_isMine : e.isMine = true := by rw [Entry.isMine, body]

theorem mine_lane : e.lane = some l := by rw [Entry.lane, body]

/-- R99: the window of a mine. -/
theorem mine_frames (w : Windows) :
    e.openFrame w = e.frame - Int.ofNat w.wm ∧ e.closeFrame w = e.frame + Int.ofNat w.wm := by
  rw [Entry.openFrame, Entry.closeFrame, mine_width (mine_isMine body)]
  exact ⟨rfl, rfl⟩

/-- R84, R101: a result of a mine itself carries its own id and lane. -/
theorem given_mine (kind : ResultKind) (offset : Option Int) (count : CountKind) :
    e.given kind offset count =
      { kind := kind, noteId := e.noteId, chartLane := c, lanes := 1#9 <<< l.val, offset := offset, count := count,
        countBy := 1 } := by
  simp only [Entry.given, Entry.chartLane, Entry.laneSet, Entry.lane, body]
  rfl

/-- R102: the standing test, for a mine whose window has not closed as it opens. -/
theorem openMine_eq :
    s.openMine k e =
      if s.clock.songTime.toInt < e.frame + Int.ofNat s.windows.wm ∧
          (s.contactOf k l = .down ∨ s.contactOf k l = .releasing) then s.hitMine k e
      else s.mapStation k (Station.mapEntries [e.seq] fun x => { x with state := .opened }) := by
  obtain ⟨_, close⟩ := mine_frames body s.windows
  simp only [State.openMine, mine_lane body, Option.any_some, close, Bool.and_eq_true, laneDown_iff, decide_eq_true_eq,
    State.now]

/-- R99: a QUEUED mine opens at its open frame. -/
theorem openEvent_mine :
    s.openEvent k e =
      if e.state = .queued ∧ e.frame - Int.ofNat s.windows.wm ≤ s.clock.songTime.toInt then s.openMine k e else s := by
  obtain ⟨opens, _⟩ := mine_frames body s.windows
  have mine := mine_isMine body
  simp only [State.openEvent, opens, mine, mine_not_step mine, Bool.false_eq_true, if_false, if_true, State.now]

/-- R101: an OPEN mine is avoided at its close frame. -/
theorem closeEvent_mine :
    s.closeEvent k e =
      if e.frame + Int.ofNat s.windows.wm ≤ s.clock.songTime.toInt ∧ e.state = .opened then s.avoidMine k e else s := by
  obtain ⟨_, close⟩ := mine_frames body s.windows
  have mine := mine_isMine body
  simp only [State.closeEvent, close, mine, mine_not_step mine, Bool.false_eq_true, if_false, true_and, State.now,
    ite_and]

end

/-! ### The press that hits a mine (R100, R101) -/

theorem isMine_on_iff {e : Entry} {l : LaneId} :
    (e.isMine = true ∧ e.lane = some l) ↔ ∃ c, e.body = .mine c l := by
  unfold Entry.isMine Entry.lane
  cases e.body <;> simp

/-- R100: when a mine is eligible. -/
theorem mineEligible_iff {w : Windows} {l : LaneId} {t : Int} {e : Entry} :
    mineEligible w l t e = true ↔
      (∃ c, e.body = .mine c l) ∧ (e.state = .queued ∨ e.state = .opened) ∧ (t - e.frame).natAbs ≤ w.wm := by
  rw [← isMine_on_iff]
  simp only [mineEligible, Bool.and_eq_true, decide_eq_true_eq, and_assoc]
  rfl

section
variable {k : StationId} {l : LaneId} {t : Int} {s : State}

/-- R72, R100: a press hits the earliest eligible mine. -/
theorem pressMines_hits (playing : (s.station k).state = .playing) {before after : List Entry} {m : Entry}
    (queue : (s.station k).queue = before ++ m :: after) (none : ∀ x ∈ before, mineEligible s.windows l t x = false)
    (eligible : mineEligible s.windows l t m = true) : s.pressMines k l t = s.hitMine k m := by
  have found : (s.station k).queue.find? (mineEligible s.windows l t) = some m :=
    List.find?_eq_some_iff_append.mpr ⟨eligible, before, after, queue, fun x mem => by rw [none x mem]; rfl⟩
  simp only [State.pressMines, State.playing, playing, decide_true, if_true, found]

theorem pressMines_none (none : ∀ x ∈ (s.station k).queue, mineEligible s.windows l t x = false) :
    s.pressMines k l t = s := by
  have found : (s.station k).queue.find? (mineEligible s.windows l t) = Option.none :=
    List.find?_eq_none.mpr fun x mem => by rw [none x mem]; exact Bool.false_ne_true
  simp only [State.pressMines, found, ite_self]

theorem pressMines_idle (idle : (s.station k).state ≠ .playing) : s.pressMines k l t = s :=
  if_neg (mt of_decide_eq_true idle)

end

/-! ### Markers (R103 to R105) -/

section
variable {k : StationId} {e : Entry} {s : State}

theorem markerEvent_before (before : s.clock.songTime.toInt < e.frame) : s.markerEvent k e = s :=
  if_neg (Int.not_le.mpr before)

theorem markerEvent_due (due : e.frame ≤ s.clock.songTime.toInt) : s.markerEvent k e = s.takeMarker k e := if_pos due

/-- R103: a due END_MARK leaves, and sets END-passed. -/
theorem takeMarker_endMark (body : e.body = .endMark) :
    s.takeMarker k e =
      (s.mapStation k fun st => { st.without [e.seq] with endPassed := true }).checkCleared k := by
  simp only [State.takeMarker, body]

/-- R104, R105: a due CUE_MARK leaves, and raises its trigger at its own frame only. -/
theorem takeMarker_cueMark {channel : ChannelId} (body : e.body = .cueMark channel) :
    s.takeMarker k e =
      (if e.frame = s.clock.songTime.toInt then
        (s.mapStation k (Station.without [e.seq])).raiseNow (.chartMark channel)
      else s.mapStation k (Station.without [e.seq])).checkCleared k := by
  simp only [State.takeMarker, body]
  rfl

theorem takeMarker_other (notEnd : e.body ≠ .endMark) (notCue : ∀ channel, e.body ≠ .cueMark channel) :
    s.takeMarker k e = s := by
  unfold State.takeMarker
  split
  · exact absurd ‹_› (notCue _)
  · exact absurd ‹_› notEnd
  all_goals rfl

/-- R103 to R105: the marker event changes nothing before the frame, nor for an entry that is no marker. -/
theorem markerEvent_idle (idle : s.clock.songTime.toInt < e.frame ∨
    (e.body ≠ .endMark ∧ ∀ channel, e.body ≠ .cueMark channel)) : s.markerEvent k e = s := by
  rcases idle with before | ⟨notEnd, notCue⟩
  · exact markerEvent_before before
  · rw [State.markerEvent, takeMarker_other notEnd notCue, ite_self]

end

/-- Settles O44: `openEvent_mine` with `openMine_eq`, and `closeEvent_mine`, for the window of a mine; `pressMines_hits` for
the press; and a marker by its kind, with `takeMarker_endMark` and `takeMarker_cueMark`. -/
theorem minesAndMarkers : Obligations.MinesAndMarkers := by
  unfold Obligations.MinesAndMarkers
  intro k e c l s now gone
  refine ⟨fun body queued due => ?_, fun body opened due => ?_, fun t playing before m after queue none body waits near => ?_,
    fun body due => (markerEvent_due due).trans (takeMarker_endMark body), fun channel body atFrame => ?_,
    fun channel body past => ?_, markerEvent_idle, fun body early => ?_, fun body early => ?_, fun t idle => ?_,
    fun t => mineEligible_iff, fun body => given_mine body _ _ _⟩
  · have opens : s.openEvent k e = s.openMine k e := (openEvent_mine body).trans (if_pos ⟨queued, due⟩)
    refine ⟨fun standing inTime => ?_, fun passes => ?_⟩
    · exact opens.trans ((openMine_eq body).trans (if_pos ⟨inTime, standing⟩))
    · refine opens.trans ((openMine_eq body).trans (if_neg ?_))
      rintro ⟨inTime, standing⟩
      rcases passes with ⟨notDown, notReleasing⟩ | closed
      · exact standing.elim notDown notReleasing
      · exact Int.not_le.mpr inTime closed
  · exact (closeEvent_mine body).trans (if_pos ⟨due, opened⟩)
  · exact pressMines_hits playing queue none (mineEligible_iff.mpr ⟨⟨c, body⟩, waits, near⟩)
  · rw [markerEvent_due (Int.le_of_eq atFrame), takeMarker_cueMark body, if_pos atFrame]
    rfl
  · rw [markerEvent_due (Int.le_of_lt past), takeMarker_cueMark body, if_neg (Int.ne_of_lt past)]
    rfl
  · refine (openEvent_mine body).trans (if_neg ?_)
    rintro ⟨queued, due⟩
    exact early.elim (Int.not_lt.mpr due) fun other => other queued
  · refine (closeEvent_mine body).trans (if_neg ?_)
    rintro ⟨due, opened⟩
    exact early.elim (Int.not_lt.mpr due) fun other => other opened
  · exact idle.elim pressMines_idle pressMines_none

end Sys2Proof.Machine
end

section
/-! SUPPORT. A result applied (R109 to R120): what each of its steps leaves, by the functions of the model that take it; and
what EXT and the displayed score show of an accumulator. -/

namespace Sys2Proof.Machine

/-- R120: the value of one result kind replaced, the others as they are. -/
theorem get_set {α : Type} (p : PerResult α) (kind other : ResultKind) (a : α) :
    (p.set kind a).get other = if other = kind then a else p.get other := by
  cases kind <;> cases other <;> rfl

/-! ### The combo and its rung (R110, R111) -/

/-- R110: a combo within its range stays there. -/
theorem comboAfter_le (kind : ResultKind) {combo : Nat} (range : combo ≤ maxWord) : kind.comboAfter combo ≤ maxWord := by
  unfold ResultKind.comboAfter
  split
  · exact Nat.min_le_left _ _
  · exact Nat.zero_le _
  · exact range

/-- The last number below a bound that passes a test. -/
theorem getLast?_filter_range {p : Nat → Bool} {n i : Nat} (passes : p i = true) (below : i < n)
    (later : ∀ j, i < j → j < n → p j = false) : ((List.range n).filter p).getLast? = some i := by
  induction n with
  | zero => exact absurd below (Nat.not_lt_zero i)
  | succ n ih =>
    rw [List.range_succ, List.filter_append]
    rcases Nat.lt_succ_iff_lt_or_eq.mp below with before | rfl
    · have fails : p n = false := later n before (Nat.lt_succ_self n)
      rw [List.filter_singleton, fails]
      simpa using ih before fun j after lt => later j after (Nat.lt_succ_of_lt lt)
    · rw [List.filter_singleton, passes]
      exact List.getLast?_concat

/-- R111: the rung in force is the highest-numbered one whose threshold is at or below the combo. -/
theorem rungFor_eq {ladder : List Rung} {combo i : Nat} {r : Rung} (rung : ladder[i]? = some r)
    (reached : r.threshold ≤ combo)
    (later : ∀ j x, i < j → ladder[j]? = some x → combo < x.threshold) : rungFor ladder combo = i := by
  have last : ((List.range ladder.length).filter fun j =>
      (ladder[j]?).any fun x => decide (x.threshold ≤ combo)).getLast? = some i := by
    refine getLast?_filter_range ?_ (List.getElem?_eq_some_iff.mp rung).1 fun j after below => ?_
    · rw [rung]
      exact decide_eq_true reached
    · have above := later j ladder[j] after (List.getElem?_eq_getElem below)
      rw [List.getElem?_eq_getElem below]
      exact decide_eq_false (Nat.not_le.mpr above)
  rw [rungFor, last, Option.getD_some]

/-- R111: the rung in force is a rung of the ladder. -/
theorem rungFor_lt {ladder : List Rung} (nonempty : 1 ≤ ladder.length) (combo : Nat) :
    rungFor ladder combo < ladder.length := by
  unfold rungFor
  cases last : ((List.range ladder.length).filter fun i =>
      (ladder[i]?).any fun r => decide (r.threshold ≤ combo)).getLast? with
  | none => exact nonempty
  | some i => exact List.mem_range.mp (List.mem_filter.mp (List.mem_of_getLast? last)).1

/-! ### The accumulator (R113) -/

theorem saturate_within {sum : Int} (low : accumulatorMin ≤ sum) (high : sum ≤ accumulatorMax) :
    saturate sum = (sum, none) :=
  (if_neg (Int.not_lt.mpr high)).trans (if_neg (Int.not_lt.mpr low))

theorem saturate_above {sum : Int} (above : accumulatorMax < sum) : saturate sum = (accumulatorMax, some .high) :=
  if_pos above

theorem saturate_below {sum : Int} (below : sum < accumulatorMin) : saturate sum = (accumulatorMin, some .low) := by
  have low : ¬ accumulatorMax < sum := Int.not_lt.mpr (Int.le_of_lt (Int.lt_trans below (by decide)))
  exact (if_neg low).trans (if_pos below)

/-- R113: a saturated sum lies between the bounds. -/
theorem saturate_range (sum : Int) : accumulatorMin ≤ (saturate sum).1 ∧ (saturate sum).1 ≤ accumulatorMax := by
  rcases Int.lt_or_le accumulatorMax sum with above | high
  · rw [saturate_above above]
    decide
  · rcases Int.lt_or_le sum accumulatorMin with below | low
    · rw [saturate_below below]
      decide
    · rw [saturate_within low high]
      exact ⟨low, high⟩

/-! ### The life (R118) -/

theorem lifeAfter_le (lifeMax life : Nat) (delta : Int) : lifeAfter lifeMax life delta ≤ lifeMax := Nat.min_le_left _ _

theorem lifeAfter_below {life : Nat} {delta : Int} (below : Int.ofNat life + delta < 0) (lifeMax : Nat) :
    lifeAfter lifeMax life delta = 0 := by
  rw [lifeAfter, Int.toNat_of_nonpos (Int.le_of_lt below), Nat.min_zero]

/-! ### The six steps (R109) -/

section
variable (scoring : Scoring) (ladder : List Rung) (noFail : Bool) (kind : ResultKind) (c : ScoreContext)

/-- R109, step 3: the sum before it is saturated. -/
def sumAfter : Int :=
  c.accumulator + scoring.weights.get kind * Int.ofNat (multiplierAt ladder (rungFor ladder (kind.comboAfter c.combo)))

@[simp] theorem applyResult_combo :
    (applyResult scoring ladder noFail kind c).context.combo = kind.comboAfter c.combo := rfl

@[simp] theorem applyResult_maxCombo :
    (applyResult scoring ladder noFail kind c).context.maxCombo = max c.maxCombo (kind.comboAfter c.combo) := rfl

@[simp] theorem applyResult_rung :
    (applyResult scoring ladder noFail kind c).context.rung = rungFor ladder (kind.comboAfter c.combo) := rfl

/-- R113, R114: what the saturated sum leaves of the accumulator and of OVF, and the bound that is noticed. -/
theorem applyResult_saturated {a : Int} {bound : Option Bound}
    (sum : saturate (sumAfter scoring ladder kind c) = (a, bound)) :
    (applyResult scoring ladder noFail kind c).context.accumulator = a ∧
      (applyResult scoring ladder noFail kind c).context.ovf = (c.ovf || bound.isSome) ∧
      (applyResult scoring ladder noFail kind c).overflow = if c.ovf then none else bound :=
  ⟨congrArg Prod.fst sum, congrArg (fun x : Int × Option Bound => c.ovf || x.2.isSome) sum,
    congrArg (fun x : Int × Option Bound => if c.ovf then none else x.2) sum⟩

@[simp] theorem applyResult_life :
    (applyResult scoring ladder noFail kind c).context.life =
      lifeAfter scoring.lifeMax c.life (scoring.deltas.get kind) := rfl

@[simp] theorem applyResult_counts :
    (applyResult scoring ladder noFail kind c).context.tally.counts =
      c.tally.counts.set kind (tallyUp (c.tally.counts.get kind)) := rfl

@[simp] theorem applyResult_strays :
    (applyResult scoring ladder noFail kind c).context.tally.strays = c.tally.strays := rfl

/-- R119, R120: a life of 0 marks the tally where the no-fail option is set. -/
theorem applyResult_wouldHaveFailed_iff :
    (applyResult scoring ladder noFail kind c).context.tally.wouldHaveFailed = true ↔
      c.tally.wouldHaveFailed = true ∨
        ((applyResult scoring ladder noFail kind c).context.life = 0 ∧ noFail = true) := by
  simp [applyResult]

/-- R119: a life of 0 fails the station where the no-fail option is clear. -/
theorem applyResult_failed_iff :
    (applyResult scoring ladder noFail kind c).failed = true ↔
      (applyResult scoring ladder noFail kind c).context.life = 0 ∧ noFail = false := by
  simp [applyResult]

end

/-! ### What the score shows (R115, R116) -/

theorem ext_iff (c : ScoreContext) :
    c.ext = true ↔ c.accumulator < -2147483648 ∨ 2147483647 < c.accumulator := by
  simp only [ScoreContext.ext, inFrameRange, Bool.not_eq_true', decide_eq_false_iff_not]
  omega

theorem displayed_of_neg {c : ScoreContext} (neg : c.accumulator < 0) : c.displayed = 0 := if_pos neg

theorem displayed_of_nonneg {c : ScoreContext} (nonneg : 0 ≤ c.accumulator) :
    (c.displayed : Int) = c.accumulator / 16 := by
  rw [ScoreContext.displayed, displayedScore, if_neg (Int.not_lt.mpr nonneg)]
  exact Int.toNat_of_nonneg (Int.ediv_nonneg nonneg (by decide))

/-- Settles O45: each step of `applyResult` by its own lemma, with `rungFor_eq` for the rung and `saturate_within`,
`saturate_above` and `saturate_below` for the accumulator. -/
theorem resultAppliedAndTheScoreItShows : Obligations.ResultAppliedAndTheScoreItShows := by
  unfold Obligations.ResultAppliedAndTheScoreItShows
  refine ⟨fun scoring ladder noFail kind c => ⟨?continues, ?breaks, ?leaves, applyResult_maxCombo ..,
      applyResult_rung .., fun low high => ?within, fun above => ?above, fun below => ?below,
      fun below => (applyResult_life ..).trans (lifeAfter_below below _), fun _ => applyResult_life .., ?count,
      fun other ne => ?others, applyResult_strays .., applyResult_wouldHaveFailed_iff .., applyResult_failed_iff ..⟩,
    fun ladder combo c => ⟨fun i r rung reached later => ?rung, ext_iff c, displayed_of_neg, displayed_of_nonneg⟩⟩
  case continues =>
    rw [applyResult_combo]
    rintro (rfl | rfl | rfl) <;> rfl
  case breaks =>
    rw [applyResult_combo]
    rintro (rfl | rfl | rfl) <;> rfl
  case leaves =>
    rw [applyResult_combo]
    rintro (rfl | rfl) <;> rfl
  case within =>
    obtain ⟨accumulator, ovf, overflow⟩ := applyResult_saturated scoring ladder noFail kind c (saturate_within low high)
    exact ⟨accumulator, ovf.trans (Bool.or_false _), overflow.trans (ite_self _)⟩
  case above =>
    obtain ⟨accumulator, ovf, overflow⟩ := applyResult_saturated scoring ladder noFail kind c (saturate_above above)
    exact ⟨accumulator, ovf.trans (Bool.or_true _), overflow⟩
  case below =>
    obtain ⟨accumulator, ovf, overflow⟩ := applyResult_saturated scoring ladder noFail kind c (saturate_below below)
    exact ⟨accumulator, ovf.trans (Bool.or_true _), overflow⟩
  case count =>
    rw [applyResult_counts, get_set, if_pos rfl]
    rfl
  case others => rw [applyResult_counts, get_set, if_neg ne]
  case rung =>
    have force : rungFor ladder combo = i := rungFor_eq rung reached later
    rw [force, multiplierAt, rung]
    exact ⟨rfl, rfl⟩

end Sys2Proof.Machine
end

section
/-! SUPPORT. The ranges of the scores (R107, R110, R111, R113, R117, R118, R120, R124): of a context, of the shared tables
on which they rest, and of a station; that every move keeps them. -/

namespace Sys2Proof.Machine

/-! ### The ranges of a score context -/

/-- R107, R110, R111, R113, R118, R120: the ranges of a score context, under a life max. -/
structure ScoreContext.InRange (lifeMax : Nat) (c : ScoreContext) : Prop where
  low : accumulatorMin ≤ c.accumulator
  high : c.accumulator ≤ accumulatorMax
  combo : c.combo ≤ c.maxCombo
  maxCombo : c.maxCombo ≤ maxWord
  life : c.life ≤ lifeMax
  counts : ∀ kind : ResultKind, c.tally.counts.get kind ≤ maxWord
  strays : c.tally.strays ≤ maxWord
  rung : c.rung ≤ 7

/-- R40, R123: the context of a FRESH open, with a life start up to the life max. -/
theorem fresh_inRange {lifeStart lifeMax : Nat} (le : lifeStart ≤ lifeMax) :
    (ScoreContext.fresh lifeStart).InRange lifeMax where
  low := (by decide : accumulatorMin ≤ 0)
  high := (by decide : 0 ≤ accumulatorMax)
  combo := Nat.le_refl _
  maxCombo := Nat.zero_le _
  life := le
  counts kind := by cases kind <;> exact Nat.zero_le _
  strays := Nat.zero_le _
  rung := Nat.zero_le _

/-- R123: the zero context. -/
theorem zero_inRange (lifeMax : Nat) : ScoreContext.zero.InRange lifeMax := fresh_inRange (Nat.zero_le lifeMax)

section
variable {lifeMax : Nat} {c : ScoreContext} (h : c.InRange lifeMax)
include h

/-- R74: a stray leaves a context in its ranges. -/
theorem ScoreContext.InRange.stray :
    { c with tally := { c.tally with strays := tallyUp c.tally.strays } }.InRange lifeMax :=
  { h with strays := Nat.min_le_left _ _ }

/-- R117: a context in its ranges is in those of any life max, once its life is clamped. -/
theorem ScoreContext.InRange.clampLife (newMax : Nat) : (c.clampLife newMax).InRange newMax :=
  { h with life := Nat.min_le_left _ _ }

end

/-! ### The shared tables (R111, R117) -/

/-- R117: the ranges of the life start and the life max. -/
structure Scoring.InRange (x : Scoring) : Prop where
  start : 1 ≤ x.lifeStart
  startLe : x.lifeStart ≤ x.lifeMax
  max : x.lifeMax ≤ 1000

/-- R111: the ranges of the ladder. -/
structure LadderInRange (ladder : List Rung) : Prop where
  nonempty : 1 ≤ ladder.length
  few : ladder.length ≤ 8
  multipliers : ∀ r ∈ ladder, 16 ≤ r.multiplier ∧ r.multiplier ≤ 255

/-- R117: what SCORING_SET lets through is in its ranges. -/
theorem scoringOf_inRange {r : ScoringRec} {x : Scoring} (passed : scoringOf r = some x) : x.InRange := by
  by_cases good : ScoringOk r
  · rw [scoringOf_good good] at passed
    cases passed
    obtain ⟨_, _, max, start, startLe⟩ := good
    exact ⟨start, startLe, max⟩
  · rw [scoringOf_bad good] at passed
    cases passed

/-- R117: the tables after a pin reset. -/
theorem reset_scoring_inRange : Scoring.reset.InRange := by constructor <;> decide

/-- R111: the ladder after a pin reset. -/
theorem reset_ladder_inRange : LadderInRange State.reset.ladder := by constructor <;> decide

/-- R112: what LADDER_SET lets through is in its ranges. -/
theorem ladderOk_inRange {ladder : List Rung} (passed : ladderOk ladder = true) : LadderInRange ladder := by
  simp only [ladderOk, Bool.and_eq_true, decide_eq_true_eq, List.all_eq_true] at passed
  obtain ⟨⟨⟨⟨nonempty, few⟩, _⟩, _⟩, multipliers⟩ := passed
  exact ⟨nonempty, few, multipliers⟩

/-- R111: a rung in force is numbered 0 to 7. -/
theorem LadderInRange.rungFor_le {ladder : List Rung} (h : LadderInRange ladder) (combo : Nat) :
    rungFor ladder combo ≤ 7 := by
  have rung := rungFor_lt h.nonempty combo
  have few := h.few
  omega

/-- R112: a context in its ranges stays there when its rung is found anew. -/
theorem ScoreContext.InRange.rerung {lifeMax : Nat} {c : ScoreContext} (h : c.InRange lifeMax) {ladder : List Rung}
    (rungs : LadderInRange ladder) (combo : Nat) : { c with rung := rungFor ladder combo }.InRange lifeMax :=
  { h with rung := rungs.rungFor_le combo }

/-- R109: a result leaves a context in its ranges. -/
theorem ScoreContext.InRange.result {scoring : Scoring} {ladder : List Rung} {c : ScoreContext}
    (h : c.InRange scoring.lifeMax) (rungs : LadderInRange ladder) (noFail : Bool) (kind : ResultKind) :
    (applyResult scoring ladder noFail kind c).context.InRange scoring.lifeMax where
  low := by
    rw [(applyResult_saturated scoring ladder noFail kind c rfl).1]
    exact (saturate_range _).1
  high := by
    rw [(applyResult_saturated scoring ladder noFail kind c rfl).1]
    exact (saturate_range _).2
  combo := by
    rw [applyResult_combo, applyResult_maxCombo]
    exact Nat.le_max_right _ _
  maxCombo := by
    rw [applyResult_maxCombo]
    exact Nat.max_le.mpr ⟨h.maxCombo, comboAfter_le kind (Nat.le_trans h.combo h.maxCombo)⟩
  life := by
    rw [applyResult_life]
    exact lifeAfter_le _ _ _
  counts other := by
    rw [applyResult_counts, get_set]
    split
    · exact Nat.min_le_left _ _
    · exact h.counts other
  strays := by
    rw [applyResult_strays]
    exact h.strays
  rung := by
    rw [applyResult_rung]
    exact rungs.rungFor_le _

/-! ### Every move keeps the ranges -/

/-- R107, R124: the live context and the saved ones are in their ranges. -/
structure Station.ScoresInRange (lifeMax : Nat) (st : Station) : Prop where
  live : st.context.InRange lifeMax
  saved : ∀ c ∈ st.stack, c.InRange lifeMax

/-- The ranges of the shared tables and of every station's contexts. -/
structure State.ScoresInRange (s : State) : Prop where
  scoring : s.scoring.InRange
  ladder : LadderInRange s.ladder
  stations : ∀ k, (s.station k).ScoresInRange s.scoring.lifeMax

/-- The live and the saved contexts stand as they are. -/
theorem Station.ScoresInRange.same {lifeMax : Nat} {a b : Station} (h : a.ScoresInRange lifeMax)
    (context : b.context = a.context) (stack : b.stack = a.stack) : b.ScoresInRange lifeMax :=
  ⟨context ▸ h.live, stack ▸ h.saved⟩

/-- R126: the live context copied onto the stack. -/
theorem Station.ScoresInRange.push {lifeMax : Nat} {st : Station} (h : st.ScoresInRange lifeMax) :
    st.push.ScoresInRange lifeMax :=
  ⟨h.live, List.forall_mem_cons.mpr ⟨h.live, h.saved⟩⟩

/-- R42, R123, R124: a station clear leaves the zero context and no saved one. -/
theorem cleared_scoresInRange (lifeMax : Nat) (st : Station) : st.cleared.ScoresInRange lifeMax :=
  ⟨zero_inRange lifeMax, List.forall_mem_nil _⟩

/-- Every move of one station keeps the ranges of its contexts. -/
theorem StationMove.keeps_scores {scoring : Scoring} {ladder : List Rung} {map : List Segment} {a b : Station}
    (m : StationMove scoring ladder map a b) (tables : scoring.InRange) (rungs : LadderInRange ladder)
    (h : a.ScoresInRange scoring.lifeMax) : b.ScoresInRange scoring.lifeMax := by
  cases m with
  | work b state context stack pending goesOn => exact h.same context stack
  | play b loaded playing context stack pending goesOn => exact h.same context stack
  | result kind => exact ⟨h.live.result rungs a.noFail kind, h.saved⟩
  | stray => exact ⟨h.live.stray, h.saved⟩
  | ended e =>
    split
    · exact Station.ScoresInRange.push (st := { a with state := e.station }) (h.same rfl rfl)
    · exact h.same rfl rfl
  | pushNow free room => exact h.push
  | pushPending pending => exact h.push
  | pop c rest top free =>
    have ⟨top, rest⟩ := List.forall_mem_cons.mp (top ▸ h.saved)
    exact ⟨top, rest⟩
  | drop c rest top free => exact ⟨h.live, (List.forall_mem_cons.mp (top ▸ h.saved)).2⟩
  | opened mode idle =>
    cases mode with
    | fresh => exact ⟨fresh_inRange tables.startLe, h.saved⟩
    | carry => exact h.same rfl rfl
  | cleared => exact cleared_scoresInRange _ a
  | accept | await | closed => exact h.same rfl rfl

/-- Every move inside the part keeps the ranges. -/
theorem InnerMove.keeps_scores {s t : State} (m : InnerMove s t) (h : s.ScoresInRange) : t.ScoresInRange := by
  cases m with
  | station k f move =>
    refine ⟨h.scoring, h.ladder, fun j => ?_⟩
    rw [State.station_mapStation]
    split
    · rename_i same
      rw [same]
      exact move.keeps_scores h.scoring h.ladder (h.stations k)
    · exact h.stations j
  | choices | song | link | cue | post => exact ⟨h.scoring, h.ladder, h.stations⟩

/-- Every station is changed in one way, which puts its contexts in the ranges of the tables after it. -/
theorem State.ScoresInRange.mapAll {s t : State} (h : s.ScoresInRange) (f : Station → Station)
    (stations : t.stations = s.stations.map f) (scoring : t.scoring.InRange) (ladder : LadderInRange t.ladder)
    (kept : ∀ st : Station, st.ScoresInRange s.scoring.lifeMax → (f st).ScoresInRange t.scoring.lifeMax) :
    t.ScoresInRange := by
  refine ⟨scoring, ladder, fun k => ?_⟩
  have : t.station k = f (s.station k) := by simp [State.station, stations]
  exact this ▸ kept _ (h.stations k)

/-- R117, R123, R124: a pin reset leaves the tables of R117, one rung, and no score. -/
theorem pinReset_scoresInRange (straps : BitVec 2) (s : State) : (s.pinReset straps).ScoresInRange := by
  refine ⟨reset_scoring_inRange, reset_ladder_inRange, fun k => ?_⟩
  have : (s.pinReset straps).station k = Station.reset := by simp [State.station, State.pinReset, State.reset]
  rw [this]
  exact ⟨zero_inRange _, List.forall_mem_nil _⟩

/-- Every move of the part keeps the ranges. -/
theorem Move.keeps_scores {s t : State} (m : Move s t) (h : s.ScoresInRange) : t.ScoresInRange := by
  cases m with
  | inner move => exact move.keeps_scores h
  | windows r w passed => exact h.mapAll _ rfl h.scoring h.ladder fun st range => range.same rfl rfl
  | scoring r x passed =>
    refine h.mapAll _ rfl (scoringOf_inRange passed) h.ladder fun st range => ⟨range.live.clampLife _, ?_⟩
    exact List.forall_mem_map.mpr fun c mem => (range.saved c mem).clampLife _
  | ladder l passed =>
    have rungs := ladderOk_inRange passed
    exact h.mapAll _ rfl h.scoring rungs fun st range => ⟨range.live.rerung rungs _, range.saved⟩
  | systemReset => exact h.mapAll _ rfl h.scoring h.ladder fun st _ => cleared_scoresInRange _ st
  | pinReset straps => exact pinReset_scoresInRange straps s
  | time | clock | tempo | scanner => exact ⟨h.scoring, h.ladder, h.stations⟩

/-- The ranges of a context, written out. -/
theorem ScoreContext.inRange_iff {lifeMax : Nat} {c : ScoreContext} :
    c.InRange lifeMax ↔
      -34359738368 ≤ c.accumulator ∧ c.accumulator ≤ 34359738367 ∧ c.combo ≤ c.maxCombo ∧ c.maxCombo ≤ 4294967295 ∧
        c.life ≤ lifeMax ∧ (∀ kind : ResultKind, c.tally.counts.get kind ≤ 4294967295) ∧
        c.tally.strays ≤ 4294967295 ∧ c.rung ≤ 7 :=
  ⟨fun ⟨low, high, combo, maxCombo, life, counts, strays, rung⟩ =>
    ⟨low, high, combo, maxCombo, life, counts, strays, rung⟩,
   fun ⟨low, high, combo, maxCombo, life, counts, strays, rung⟩ =>
    ⟨low, high, combo, maxCombo, life, counts, strays, rung⟩⟩

/-- Settles O58: every step is a chain of moves (`step_moves`), and every move keeps the ranges (`Move.keeps_scores`). -/
theorem scoresStayInTheirRanges : Obligations.ScoresStayInTheirRanges := by
  unfold Obligations.ScoresStayInTheirRanges
  simp only [← ScoreContext.inRange_iff]
  intro s t ⟨start, startLe, max, nonempty, few, multipliers, stations⟩ next
  have before : State.ScoresInRange { s with pending := s.pending.tail } :=
    ⟨⟨start, startLe, max⟩, ⟨nonempty, few, multipliers⟩, fun k => ⟨(stations k).1, (stations k).2⟩⟩
  obtain ⟨tables, rungs, stations⟩ := (step_moves s t next).keep (fun _ _ => Move.keeps_scores) before
  exact ⟨tables.start, tables.startLe, tables.max, rungs.nonempty, rungs.few, rungs.multipliers, fun k =>
    ⟨(stations k).live, (stations k).saved⟩⟩

end Sys2Proof.Machine
end

section
/-! SUPPORT. The checkpoint stack (R126 to R128, R131, R132, R134): the quiet point, the push that its test takes, and
CHECKPOINT_PUSH, CHECKPOINT_POP and CHECKPOINT_DROP by their checks in order. -/

namespace Sys2Proof.Machine

/-! ### The quiet point (R127) -/

theorem partlyJudged_eq (queue : List Entry) :
    partlyJudged queue =
      queue.any fun x => x.isJudged && queue.any fun y => x.sameChord y && decide (y.state = .opened) := by
  refine congrArg queue.any (funext fun x => ?_)
  unfold Entry.isJudged
  cases x.state <;> rfl

theorem partlyJudged_eq_false_iff (queue : List Entry) :
    partlyJudged queue = false ↔
      ∀ x ∈ queue, ∀ y ∈ queue, x.sameChord y = true → x.isJudged = true → y.state ≠ .opened := by
  simp only [partlyJudged_eq, List.any_eq_false, Bool.and_eq_true, List.any_eq_true, decide_eq_true_eq]
  exact ⟨fun none x memX y memY same judged opened => none x memX ⟨judged, y, memY, same, opened⟩,
    fun all x memX ⟨judged, y, memY, same, opened⟩ => all x memX y memY same judged opened⟩

/-- R127: the three conditions of a quiet point. -/
theorem quiet_iff (s : State) (k : StationId) :
    s.quiet k = true ↔ (∀ e ∈ (s.station k).queue, e.state ≠ .holding) ∧
      (∀ x ∈ (s.station k).queue, ∀ y ∈ (s.station k).queue, x.sameChord y = true → x.isJudged = true →
        y.state ≠ .opened) ∧ ∀ l : LaneId, s.contactOf k l ≠ .pressing := by
  have holds : (s.station k).queue.any Entry.isHolding = false ↔ ∀ e ∈ (s.station k).queue, e.state ≠ .holding := by
    simp only [isHolding_eq, List.any_eq_false, decide_eq_true_eq, ne_eq]
  have presses : (allLanes.any fun l => s.lanePressing k l) = false ↔ ∀ l : LaneId, s.contactOf k l ≠ .pressing := by
    simp only [State.lanePressing, List.any_eq_false, decide_eq_true_eq, mem_allLanes, true_implies, ne_eq]
  rw [State.quiet, Bool.and_eq_true, Bool.and_eq_true, Bool.not_eq_true', Bool.not_eq_true', Bool.not_eq_true', holds,
    partlyJudged_eq_false_iff, presses, and_assoc]

/-! ### The quiet-point test (R128, R134) -/

theorem testPush_taken {s : State} {k : StationId} (playing : (s.station k).state = .playing) (quiet : s.quiet k = true)
    (pending : (s.station k).pushPending = true) :
    s.testPush k =
      (s.mapStation k Station.push).offer
        (s.noticeOf (.checkpointTaken k ((s.station k).stack.length + 1) (s.station k).context.displayed .quiet)) := by
  simp only [State.testPush, State.takePush, State.playing, playing, quiet, pending, decide_true, Bool.and_self, if_true,
    List.foldl_cons, List.foldl_nil]

theorem testPush_none {s : State} {k : StationId}
    (none : (s.station k).state ≠ .playing ∨ s.quiet k = false ∨ (s.station k).pushPending = false) :
    s.testPush k = s := by
  rcases none with state | noisy | clear
  · simp only [State.testPush, State.playing, state, decide_false, Bool.false_and, Bool.false_eq_true, if_false]
  · simp only [State.testPush, noisy, Bool.and_false, Bool.false_eq_true, if_false]
  · simp only [State.testPush, State.takePush, clear, Bool.false_eq_true, if_false, List.foldl_nil, ite_self]

/-! ### The requests by their checks (R126, R131, R132) -/

section
variable {b : Byte} {k : StationId} {s : State}

/-- R126, R131, R132: the first check of each request. -/
theorem takeCheckpoint_beyond (beyond : 3 < b.toNat) (s : State) :
    takeCheckpointPush b s = (s, replyFor (.checkpointPush b) .badValue []) ∧
      takeCheckpointPop b s = (s, replyFor (.checkpointPop b) .badValue []) ∧
      takeCheckpointDrop b s = (s, replyFor (.checkpointDrop b) .badValue []) := by
  simp only [takeCheckpointPush, takeCheckpointPop, takeCheckpointDrop, stationOf_none beyond, and_self]

/-- R126: checks 2 to 4 of CHECKPOINT_PUSH, then whether the push waits. -/
theorem takeCheckpointPush_eq (named : b.toNat = k.val) :
    takeCheckpointPush b s =
      if (s.station k).state = .vacant then (s, replyFor (.checkpointPush b) .state [])
      else if (s.station k).pushPending = true then (s, replyFor (.checkpointPush b) .busy [])
      else if 4 ≤ (s.station k).stack.length then (s, replyFor (.checkpointPush b) .stackFull [])
      else if (s.station k).state = .playing ∧ s.quiet k = false then
        (s.mapStation k fun st => { st with pushPending := true },
          replyFor (.checkpointPush b) .pending (num8 (s.station k).stack.length))
      else (s.mapStation k Station.push, replyFor (.checkpointPush b) .ok (num8 ((s.station k).stack.length + 1))) := by
  simp only [takeCheckpointPush, stationOf_some named]

/-- R126: a CHECKPOINT_PUSH that passes every check. -/
theorem takeCheckpointPush_passed (named : b.toNat = k.val) (open_ : (s.station k).state ≠ .vacant)
    (clear : (s.station k).pushPending = false) (room : (s.station k).stack.length < 4) :
    takeCheckpointPush b s =
      if (s.station k).state = .playing ∧ s.quiet k = false then
        (s.mapStation k fun st => { st with pushPending := true },
          replyFor (.checkpointPush b) .pending (num8 (s.station k).stack.length))
      else (s.mapStation k fun st => { st with stack := st.context :: st.stack },
        replyFor (.checkpointPush b) .ok (num8 ((s.station k).stack.length + 1))) := by
  have pushed : s.mapStation k Station.push = s.mapStation k fun st => { st with stack := st.context :: st.stack } :=
    State.mapStation_congr s (by simp only [Station.push, clear])
  rw [takeCheckpointPush_eq named, if_neg open_, if_neg (Bool.eq_false_iff.mp clear),
    if_neg (Nat.not_le.mpr room), pushed]

/-- R131: checks 2 and 3 of CHECKPOINT_POP. -/
theorem takeCheckpointPop_refused (named : b.toNat = k.val) :
    ((s.station k).pushPending = true → takeCheckpointPop b s = (s, replyFor (.checkpointPop b) .busy [])) ∧
      ((s.station k).pushPending = false → (s.station k).state = .playing ∨ (s.station k).state = .vacant →
        takeCheckpointPop b s = (s, replyFor (.checkpointPop b) .state [])) := by
  refine ⟨fun pending => ?_, fun clear bad => ?_⟩
  · simp only [takeCheckpointPop, stationOf_some named, pending, if_true]
  · simp only [takeCheckpointPop, stationOf_some named, clear, bad, Bool.false_eq_true, if_false, if_true]

/-- R131: CHECKPOINT_POP past its first three checks, by what the stack holds. -/
theorem takeCheckpointPop_passed (named : b.toNat = k.val) (clear : (s.station k).pushPending = false)
    (idle : ¬((s.station k).state = .playing ∨ (s.station k).state = .vacant)) :
    ((s.station k).stack = [] → takeCheckpointPop b s = (s, replyFor (.checkpointPop b) .stackEmpty [])) ∧
      ∀ c rest, (s.station k).stack = c :: rest →
        takeCheckpointPop b s =
          (s.mapStation k fun st => { st with context := c, stack := rest },
            replyFor (.checkpointPop b) .ok (num8 rest.length ++ num32 c.displayed)) := by
  refine ⟨fun empty => ?_, fun c rest top => ?_⟩
  · simp only [takeCheckpointPop, stationOf_some named, clear, idle, empty, Bool.false_eq_true, if_false]
  · simp only [takeCheckpointPop, stationOf_some named, clear, idle, top, Bool.false_eq_true, if_false]

/-- R132: CHECKPOINT_DROP past its first check. -/
theorem takeCheckpointDrop_named (named : b.toNat = k.val) :
    ((s.station k).pushPending = true → takeCheckpointDrop b s = (s, replyFor (.checkpointDrop b) .busy [])) ∧
      ((s.station k).pushPending = false → (s.station k).stack = [] →
        takeCheckpointDrop b s = (s, replyFor (.checkpointDrop b) .stackEmpty [])) ∧
      ∀ c rest, (s.station k).pushPending = false → (s.station k).stack = c :: rest →
        takeCheckpointDrop b s =
          (s.mapStation k fun st => { st with stack := rest },
            replyFor (.checkpointDrop b) .ok (num8 rest.length)) := by
  refine ⟨fun pending => ?_, fun clear empty => ?_, fun c rest clear top => ?_⟩
  · simp only [takeCheckpointDrop, stationOf_some named, pending, if_true]
  · simp only [takeCheckpointDrop, stationOf_some named, clear, empty, Bool.false_eq_true, if_false]
  · simp only [takeCheckpointDrop, stationOf_some named, clear, top, Bool.false_eq_true, if_false]

end

/-- Settles O46: the checks of CHECKPOINT_PUSH in order, the two outcomes of the quiet-point test, and `quiet_iff`. -/
theorem checkpointPushAtOnceOrPending : Obligations.CheckpointPushAtOnceOrPending := by
  unfold Obligations.CheckpointPushAtOnceOrPending
  refine ⟨fun b s ready => ⟨fun beyond => congrArg _ (submit_refused rfl ready (takeCheckpoint_beyond beyond s).1),
    fun k named => ?_⟩, fun k s => ⟨testPush_taken, testPush_none⟩, fun k s => ?_⟩
  · have checks := takeCheckpointPush_eq (s := s) named
    simp only [← quiet_iff]
    refine ⟨fun vacant => congrArg _ (submit_refused rfl ready (checks.trans (if_pos vacant))),
      fun open_ pending => congrArg _ (submit_refused rfl ready ?_),
      fun open_ clear full => congrArg _ (submit_refused rfl ready ?_), fun open_ clear room => ?_⟩
    · rw [checks, if_neg open_, if_pos pending]
    · rw [checks, if_neg open_, if_neg (Bool.eq_false_iff.mp clear), if_pos full]
    · have passed := takeCheckpointPush_passed named open_ clear room
      refine ⟨fun atOnce => congrArg _ (submit_station rfl ready (passed.trans (if_neg ?_))),
        fun playing noisy => congrArg _ (submit_station rfl ready
          (passed.trans (if_pos ⟨playing, Bool.eq_false_iff.mpr noisy⟩)))⟩
      rintro ⟨playing, noisy⟩
      exact atOnce.elim (· playing) (Bool.eq_false_iff.mp noisy)
  · have same (x y : Entry) : x.sameChord y = true ↔ x.chord ≠ none ∧ y.isStep = true ∧ x.tick = y.tick := by
      rw [sameChord_iff, eq_comm (a := y.tick)]
    simp only [quiet_iff, same, and_imp]

/-- Settles O47: the checks of CHECKPOINT_POP in order, each answered at once. -/
theorem checkpointPop : Obligations.CheckpointPop := by
  unfold Obligations.CheckpointPop
  refine fun b s ready => ⟨fun beyond => congrArg _ (submit_refused rfl ready (takeCheckpoint_beyond beyond s).2.1),
    fun k named => ?_⟩
  obtain ⟨busy, state⟩ := takeCheckpointPop_refused (s := s) named
  refine ⟨fun pending => congrArg _ (submit_refused rfl ready (busy pending)),
    fun clear bad => congrArg _ (submit_refused rfl ready (state clear bad)), fun clear notPlaying notVacant => ?_⟩
  obtain ⟨empty, top⟩ := takeCheckpointPop_passed named clear (not_or.mpr ⟨notPlaying, notVacant⟩)
  exact ⟨fun none => congrArg _ (submit_refused rfl ready (empty none)),
    fun c rest saved => congrArg _ (submit_station rfl ready (top c rest saved))⟩

/-- Settles O48: the checks of CHECKPOINT_DROP in order, each answered at once. -/
theorem checkpointDrop : Obligations.CheckpointDrop := by
  unfold Obligations.CheckpointDrop
  refine fun b s ready => ⟨fun beyond => congrArg _ (submit_refused rfl ready (takeCheckpoint_beyond beyond s).2.2),
    fun k named => ?_⟩
  obtain ⟨busy, empty, top⟩ := takeCheckpointDrop_named (s := s) named
  exact ⟨fun pending => congrArg _ (submit_refused rfl ready (busy pending)),
    fun clear none => congrArg _ (submit_refused rfl ready (empty clear none)),
    fun c rest clear saved => congrArg _ (submit_station rfl ready (top c rest clear saved))⟩

end Sys2Proof.Machine
end

section
/-! SUPPORT. Lines that no step owns show their base levels (R151, R153), and nothing stays on its way at the end of a command
(R139, R146, logs 6, 8 and 33). -/

namespace Sys2Proof.Machine

/-! ### Lines that no step owns (R151 to R153) -/

/-- R151, R153: without an owner the line shows its base level. -/
def Line.AtRest (l : Line) : Prop := l.owner = none → l.current = l.base

/-- Every line without an owner shows its base level. -/
def CueEngine.LinesAtRest (e : CueEngine) : Prop := ∀ n : LineId, (e.lines[n]).AtRest

/-- R153: a released line shows its base level. -/
theorem toBase_atRest (l : Line) : l.toBase.AtRest := fun _ => rfl

/-- R152: a new base level is shown at once where the line has no owner. -/
theorem setBase_atRest (level : Byte) (l : Line) : (l.setBase level).AtRest := fun free => by
  have free : l.owner = none := free
  rw [Line.setBase, free]
  rfl

/-- One line is changed, and comes to rest where it has no owner. -/
theorem CueEngine.LinesAtRest.mapLine {e : CueEngine} (h : e.LinesAtRest) {n : LineId} {f : Line → Line}
    (changed : (f e.lines[n]).AtRest) : (e.mapLine n f).LinesAtRest := fun m => by
  by_cases same : m = n
  · subst same
    rwa [CueEngine.mapLine_same]
  · rw [CueEngine.mapLine_ne same]
    exact h m

/-- R151 to R153, R162, R170: every move of the cue engine keeps the lines at rest. -/
theorem CueMove.keeps_atRest {a b : CueEngine} (move : CueMove a b) (h : a.LinesAtRest) : b.LinesAtRest := by
  cases move with
  | start now c record => exact h.mapLine (f := fun l => { l with current := _, owner := some _ }) nofun
  | release c r =>
    unfold CueEngine.releaseStep
    split
    · exact h.mapLine (toBase_atRest _)
    · exact h
  | base n level => exact h.mapLine (setBase_atRest level _)
  | memory | channels => exact h
  | systemReset =>
    intro n
    have released : a.systemReset.lines[n] = (a.lines[n]).toBase := by simp [CueEngine.systemReset]
    rw [released]
    exact toBase_atRest _

/-- Every move of the part keeps the lines at rest. -/
theorem Move.keeps_atRest {s t : State} (move : Move s t) (h : s.cue.LinesAtRest) : t.cue.LinesAtRest := by
  cases move with
  | inner move =>
    cases move with
    | cue f move => exact move.keeps_atRest h
    | choices | song | station | link | post => exact h
  | systemReset => exact CueMove.keeps_atRest (.systemReset _) h
  | pinReset straps =>
    intro n
    have reset : (s.pinReset straps).cue.lines[n] = { base := 0, current := 0, owner := none } := by
      simp [State.pinReset, State.reset, CueEngine.reset]
    rw [reset]
    exact fun _ => rfl
  | time | clock | tempo | scanner | windows | scoring | ladder => exact h

/-! ### What posts and reports leave on its way -/

/-- What is on its way rests on song control's end events and on the link port's held reports. -/
theorem due_congr {s t : State} (ends : t.song.ends = s.song.ends) (held : t.link.held = s.link.held) :
    t.due = s.due := by
  rw [State.due, ends, held, State.due]

theorem mapLink_due {s : State} {f : LinkPort → LinkPort} (held : (f s.link).held = s.link.held) :
    (s.mapLink f).due = s.due := due_congr rfl held

theorem due_eq_nil {s : State} : s.due = [] ↔ s.song.ends = [] ∧ s.link.held = [] := by
  simp [State.due]

/-- Nothing stays on its way where nothing is due and no hand-off is being taken. -/
theorem quiescent_iff (s : State) : s.quiescent ↔ s.due = [] ∧ s.outbox = none := by
  rw [due_eq_nil, and_assoc, State.quiescent]

theorem Drawn.due {s t : State} (h : Drawn s t) : t.due = s.due := by
  unfold Drawn at h
  rw [h]
  rfl

theorem foldl_due {α : Type} {f : State → α → State} (h : ∀ s a, (f s a).due = s.due) (as : List α) (s : State) :
    (as.foldl f s).due = s.due := by
  induction as generalizing s with
  | nil => rfl
  | cons a as ih => exact (ih _).trans (h s a)

theorem inAnyOrder_due {α : Type} {f : α → State → State} (h : ∀ a s, (f a s).due = s.due) (as : List α) (s : State) :
    (inAnyOrder f as s).due = s.due := by
  obtain ⟨order, cs, count, _, taken⟩ := inAnyOrder_spec f as s
  rw [taken]
  exact foldl_due (fun s a => h a s) order _

theorem offer_due (r : Report) (s : State) : (s.offer r).due = s.due :=
  due_congr (congrArg Song.ends (offer_aside r s).song) (offer_held r s)

theorem notify_due (n : Notice) (s : State) : (s.notify n).due = s.due := offer_due _ s

theorem offerAny_due (rs : List Report) (s : State) : (s.offerAny rs).due = s.due := inAnyOrder_due offer_due rs s

theorem raise_due (g : Trigger) (s : State) : (s.raise g).1.due = s.due := by
  unfold State.raise
  split
  · rfl
  · obtain ⟨cs, count, drawn⟩ := shuffle_keeps (s.cue.takers g).length (s.cue.takers g) s
    exact (drawn_of_eq drawn).due

theorem raiseNow_due (g : Trigger) (s : State) : (s.raiseNow g).due = s.due :=
  (foldl_due (fun s r => offer_due r s) _ _).trans (raise_due g s)

theorem takeChained_due (d : Trigger × ChannelId) (s : State) : (s.takeChained d).due = s.due :=
  foldl_due (fun s n => notify_due n s) _ _

theorem takePost_due (p : Post) (s : State) : (s.takePost p).due = s.due := by
  cases p with
  | report r => exact offer_due r s
  | trigger t c => exact takeChained_due (t, c) s

theorem postsDeliver_due (ss : List (List Post)) (s : State) : (s.deliver ss).due = s.due := by
  obtain ⟨posts, cs, count, _, _, delivered⟩ := deliver_spec ss s
  rw [delivered]
  exact foldl_due (fun s p => takePost_due p s) posts _

/-! ### What song control leaves on its way (R144 to R146) -/

theorem countUp_due (k : StationId) (c : CountKind) (n : Nat) (s : State) : (s.countUp k c n).due = s.due := by
  obtain ⟨v, _, drawn⟩ := countUp_spec k c n s
  exact drawn.due

theorem endPushed_due (k : StationId) (e : EndState) (s : State) : (s.endPushed k e).due = s.due := by
  have ended : (s.ended k e).due = s.due := (countUp_due k _ _ _).trans (countUp_due k _ _ s)
  unfold State.endPushed
  split
  · exact ended
  · exact ended

/-- R37: the entry into an end state puts nothing on its way by itself. -/
theorem enterEnd_due (k : StationId) (e : EndState) (s : State) : (s.enterEnd k e).1.due = s.due := by
  obtain ⟨point, u, _, drawn, entered⟩ := enterEnd_spec k e s
  have raised : (u.endTrigger k e).1.due = u.due := by
    cases e with
    | cleared => exact raise_due _ u
    | failed => exact raise_due _ u
    | aborted => rfl
  rw [entered]
  exact (raised.trans drawn.due).trans (endPushed_due k e s)

theorem abortStations_due (ks : List StationId) (s : State) : (abortStations ks s).1.due = s.due := by
  induction ks generalizing s with
  | nil => rfl
  | cons k rest ih =>
    rw [abortStations_cons]
    exact (ih _).trans (enterEnd_due k .aborted s)

/-- R145: an abort hands song control no end event, and holds no report back. -/
theorem abortSong_due (cause : FinishCause) (s : State) : (s.abortSong cause).due = s.due :=
  (offerAny_due _ _).trans (abortStations_due s.armedPlaying s)

theorem finishSong_due (s : State) : s.finishSong.due = s.due := offer_due _ _

theorem takeEnd_due (e : EndState) (s : State) : (s.takeEnd e).due = s.due := by
  unfold State.takeEnd
  split
  · split
    · exact abortSong_due .aborted s
    · split
      · exact finishSong_due s
      · rfl
  · rfl

theorem takePulse_due (m : Half) (s : State) : (s.takePulse m).due = s.due := by
  unfold State.takePulse
  split
  · exact abortSong_due .aborted s
  · rfl

theorem finishIfNone_due (s : State) : s.finishIfNone.due = s.due := by
  unfold State.finishIfNone
  split
  · exact finishSong_due s
  · rfl

/-! ### Hand-offs that put nothing more on its way -/

/-- A hand-off to song control, the cue engine or the link port, or a pulse to the scanner: no station ends by its own play in
it. -/
def HandOff.Settles : HandOff → Prop
  | .songStart | .scannerPulse _ | .songPulse _ | .cuePulse | .linkPulse _ | .ended _ _ | .report _ => True
  | .engine _ | .enter _ | .resume _ | .starve _ | .abandon _ | .startClear _ => False

theorem takeHandOff_due {h : HandOff} (settles : h.Settles) (s : State) : (s.takeHandOff h).due = s.due := by
  cases h with
  | songStart => exact raiseNow_due .songStart s
  | scannerPulse m => rfl
  | songPulse m => exact takePulse_due m s
  | cuePulse => exact raiseNow_due .measure s
  | linkPulse m => exact notify_due (.measure m) s
  | ended k e => exact takeEnd_due e s
  | report r => exact offer_due r s
  | engine | enter | resume | starve | abandon | startClear => exact settles.elim

theorem collectAll_due {hs : List HandOff} (settle : ∀ h ∈ hs, h.Settles) (s : State) :
    (s.collectAll State.takeHandOff hs).2.due = s.due := by
  induction hs generalizing s with
  | nil => rfl
  | cons h rest ih =>
    have first : (s.collect (State.takeHandOff h)).2.due = s.due :=
      takeHandOff_due (settle h (.head _)) (s.withOutbox (some []))
    exact (ih (fun g mem => settle g (.tail _ mem)) _).trans first

theorem takeHandOffs_due {hs : List HandOff} (settle : ∀ h ∈ hs, h.Settles) (s : State) :
    (s.takeHandOffs hs).due = s.due := by
  obtain ⟨order, cs, count, perm, taken⟩ := takeHandOffs_spec hs s
  rw [taken]
  exact (postsDeliver_due _ _).trans (collectAll_due (fun h mem => settle h (perm.mem_iff.mp mem)) _)

/-- What is on its way settles once it is taken. -/
theorem due_settles (s : State) : ∀ h ∈ s.due, h.Settles := by
  intro h mem
  simp only [State.due, List.mem_append, List.mem_map] at mem
  rcases mem with ⟨x, _, rfl⟩ | ⟨r, _, rfl⟩ <;> trivial

/-- R139, R146: once what is on its way has been taken, nothing is. -/
theorem flushWith_due {more : List HandOff} (settle : ∀ h ∈ more, h.Settles) (s : State) :
    (s.flushWith more).due = [] := by
  refine (takeHandOffs_due (fun h mem => ?_) _).trans rfl
  rw [List.append_assoc] at mem
  exact (List.mem_append.mp mem).elim (settle h) (due_settles s h)

theorem flush_due (s : State) : s.flush.due = [] := flushWith_due (more := []) nofun s

/-! ### What each command leaves on its way -/

theorem beginNext_held (l : LinkPort) : l.beginNext.held = l.held := by
  unfold LinkPort.beginNext
  split
  · rfl
  · exact beginReport_held l

theorem settle_due (s : State) : s.settle.due = s.due := by
  refine mapLink_due ?_
  unfold LinkPort.settle
  split
  · exact beginNext_held s.link
  · rfl

theorem takeStored_held (now : Nat) (b : Byte) (l : LinkPort) : (l.takeStored now b).held = l.held := by
  unfold LinkPort.takeStored
  split <;> rfl

theorem receiveByte_held (now : Nat) (b : Byte) (framingError : Bool) (l : LinkPort) :
    (l.receiveByte now b framingError).held = l.held := by
  unfold LinkPort.receiveByte LinkPort.receive
  split
  · split
    · rfl
    · split
      · rfl
      · rfl
      · split
        · exact takeStored_held now b l
        · rfl
  · rfl
  · rfl

theorem receiveBytes_held (now : Nat) (bytes : List Byte) (l : LinkPort) :
    (l.receiveBytes now bytes).held = l.held := by
  induction bytes generalizing l with
  | nil => rfl
  | cons b rest ih => exact (ih _).trans (receiveByte_held now b false l)

theorem takeBreak_held (l : LinkPort) : l.takeBreak.held = l.held := by
  unfold LinkPort.takeBreak
  split <;> rfl

/-- A request takes what is on its way before it is answered. -/
theorem answer_due (take : State → State × Reply) (s : State) : (s.answer take).due = [] := by
  obtain ⟨v, drawn, answered⟩ := answer_drawn take s
  have before : v.due = [] := drawn.due.trans (flush_due _)
  rcases answered with first | ⟨_, _, second⟩
  · rw [first]
    exact (settle_due _).trans before
  · rw [second, settle_due]
    exact (mapLink_due (beginReport_held v.link)).trans before

theorem submit_due (i : Instr) (take : State → State × Reply) {s : State} (none : s.due = []) :
    (s.submit i take).due = [] := by
  unfold State.submit
  split
  · exact answer_due _ s
  · exact (mapLink_due (receiveBytes_held _ _ s.link)).trans none

theorem finish_due (s : State) : s.finish.due = [] := (settle_due _).trans (flush_due s)

theorem transmitDone_due (s : State) : s.transmitDone.due = s.due := by
  unfold State.transmitDone
  split
  · rfl
  · exact settle_due _
  · exact settle_due _
  · exact settle_due _

theorem latchStart_due (s : State) : s.latchStart.due = s.due := by
  unfold State.latchStart
  split <;> rfl

theorem clockLost_due (s : State) : s.clockLost.due = s.due := by
  unfold State.clockLost
  split
  · exact notify_due _ _
  · rfl

theorem expireStep_due (c : ChannelId) (r : RunningStep) (s : State) : (s.expireStep c r).due = s.due :=
  (inAnyOrder_due takeChained_due _ _).trans (foldl_due (fun s n => notify_due n s) _ _)

/-- R1, R14: the engines' end events are taken behind the counted edge, with the pulse and its later deliveries. -/
theorem countedEdge_due (s : State) : s.countedEdge.due = [] := by
  unfold State.countedEdge
  dsimp only
  split
  · obtain ⟨parts, _⟩ := pickSome_spec (pulseDeliveries s.countFrame.firePulse.clock.measure) s.countFrame.firePulse
    refine flushWith_due (fun h mem => ?_) _
    rcases List.mem_cons.mp mem with rfl | late
    · trivial
    · have delivery := parts.mem_iff.mp (List.mem_append_right _ late)
      simp only [pulseDeliveries, List.mem_cons, List.not_mem_nil, or_false] at delivery
      rcases delivery with rfl | rfl | rfl <;> trivial
  · exact flush_due _

/-- R1, R139, R142: each edge takes what it puts on its way. -/
theorem edgeBySong_due (wasAbsent : Bool) {s : State} (none : s.due = []) : (s.edgeBySong wasAbsent).due = [] := by
  unfold State.edgeBySong
  split
  · exact countedEdge_due s
  · split
    · exact flush_due _
    · exact none
  · split
    · exact (finishIfNone_due _).trans (flush_due _)
    · exact none
  · exact none
  · exact none

/-- Every command that finds nothing on its way leaves nothing on its way. -/
theorem exec_due {c : Instr} {s t : State} (none : s.due = []) (h : exec c s = .next t) : t.due = [] := by
  cases c with
  | pinReset straps =>
    obtain rfl := Host.Outcome.next.inj h
    rfl
  | startFallingEdge =>
    obtain rfl := Host.Outcome.next.inj h
    exact (latchStart_due s).trans none
  | wclkEdge =>
    obtain rfl := Host.Outcome.next.inj h
    exact (settle_due _).trans (edgeBySong_due _ (s := s.watchEdge) none)
  | watchTimerExpiry =>
    simp only [exec, execWatchTimerExpiry] at h
    split at h <;> obtain rfl := Host.Outcome.next.inj h
    · exact ((settle_due _).trans (clockLost_due _)).trans none
    · exact none
  | haltTimerExpiry =>
    simp only [exec, execHaltTimerExpiry] at h
    split at h <;> obtain rfl := Host.Outcome.next.inj h
    · exact finish_due _
    · exact none
  | scanRoundStart =>
    simp only [exec, execScanRoundStart] at h
    split at h <;> (obtain rfl := Host.Outcome.next.inj h; exact none)
  | scanRoundEnd data =>
    simp only [exec, execScanRoundEnd] at h
    split at h
    · obtain rfl := Host.Outcome.next.inj h
      exact none
    · split at h <;> obtain rfl := Host.Outcome.next.inj h
      · exact none
      · exact finish_due _
  | stepExpiry channel =>
    simp only [exec, execStepExpiry] at h
    split at h <;> obtain rfl := Host.Outcome.next.inj h
    · exact ((settle_due _).trans (expireStep_due _ _ _)).trans none
    · exact none
  | rxdByte value framingError =>
    obtain rfl := Host.Outcome.next.inj h
    exact (mapLink_due (receiveByte_held _ value framingError s.link)).trans none
  | gapTimerExpiry =>
    simp only [exec, execGapTimerExpiry] at h
    split at h <;> (obtain rfl := Host.Outcome.next.inj h; exact none)
  | linkBreak =>
    obtain rfl := Host.Outcome.next.inj h
    exact ((settle_due _).trans (mapLink_due (takeBreak_held s.link))).trans none
  | frameTaken =>
    simp only [exec, execFrameTaken] at h
    split at h <;> obtain rfl := Host.Outcome.next.inj h
    · exact answer_due _ _
    · exact none
  | transmitComplete =>
    obtain rfl := Host.Outcome.next.inj h
    exact (transmitDone_due s).trans none
  | systemResetEvent =>
    have held := (due_eq_nil.mp none).2
    simp only [exec, execSystemResetEvent] at h
    split at h <;> obtain rfl := Host.Outcome.next.inj h
    · exact (settle_due _).trans (due_congr (s := State.reset) rfl held)
    · exact none
  | rxdReturnsHigh =>
    obtain rfl := Host.Outcome.next.inj h
    exact none
  | _ =>
    obtain rfl := Host.Outcome.next.inj h
    exact submit_due _ _ none

/-- Every step from a quiescent state ends in one. -/
theorem step_quiescent {s t : State} (h : s.quiescent) (next : step s = .next t) : t.quiescent := by
  obtain ⟨none, outbox⟩ := (quiescent_iff s).mp h
  refine (quiescent_iff t).mpr ⟨?_, (step_moves s t next).outbox_none outbox⟩
  unfold step at next
  split at next
  · rename_i rest _
    exact exec_due (s := { s with pending := rest }) none next
  · obtain rfl := Host.Outcome.next.inj next
    exact none

/-- Settles O59: every move keeps the lines at rest, and every command takes what it puts on its way. -/
theorem linesAndHandOffsSettle : Obligations.LinesAndHandOffsSettle := by
  unfold Obligations.LinesAndHandOffsSettle
  refine ⟨fun s t rest next => ?_, fun s t => step_quiescent⟩
  have start : CueEngine.LinesAtRest ({ s with pending := s.pending.tail } : State).cue := rest
  exact (step_moves s t next).keep (P := fun u => u.cue.LinesAtRest) (fun _ _ => Move.keeps_atRest) start

end Sys2Proof.Machine
end

section
/-! SUPPORT. The requests of song control (R137, R138, R144, R145), and what song control does at a measure pulse and at a
station end event (R144, R146). -/

namespace Sys2Proof.Machine

/-! ### The masks of the song requests (R188) -/

/-- R188: a mask of four members has no value above 15. -/
theorem namesBeyondFour_iff (b : Byte) : namesBeyondFour b = true ↔ 15 < b.toNat := by
  have high : (b.extractLsb' 4 4).toNat = b.toNat / 16 := by
    simp only [BitVec.extractLsb'_toNat, Nat.shiftRight_eq_div_pow]
    have := b.isLt
    omega
  rw [namesBeyondFour, decide_eq_true_eq, ← BitVec.toNat_ne_iff_ne, high]
  exact (Nat.ne_zero_iff_zero_lt.trans (by omega))

theorem namesBeyondFour_within {b : Byte} (within : b.toNat ≤ 15) : namesBeyondFour b = false :=
  Bool.eq_false_iff.mpr (mt (namesBeyondFour_iff b).mp (Nat.not_lt.mpr within))

theorem has_stationMaskOf (b : Byte) (k : StationId) : StationSet.has (stationMaskOf b) k = b.getLsbD k.val := by
  simp [StationSet.has, stationMaskOf, k.isLt]

/-- R137: a mask of four members names no station where it is 0. -/
theorem stationMaskOf_eq_zero {b : Byte} (within : b.toNat ≤ 15) : stationMaskOf b = 0 ↔ b = 0 := by
  have low : (stationMaskOf b).toNat = b.toNat := by
    simp only [stationMaskOf, BitVec.extractLsb'_toNat, Nat.shiftRight_zero]
    omega
  rw [← BitVec.toNat_inj, ← BitVec.toNat_inj, low]
  rfl

theorem allLoaded_iff {s : State} {m : StationSet} :
    s.allLoaded m = true ↔ ∀ k, StationSet.has m k = true → (s.station k).state = .loaded := by
  simp only [State.allLoaded, List.all_eq_true, mem_allStations, forall_const, Bool.or_eq_true, Bool.not_eq_true',
    decide_eq_true_eq, ← Bool.not_eq_true, ← imp_iff_not_or]

/-! ### SONG_ARM, START and SONG_GO (R137, R138) -/

/-- A request that changes song control's record but for the end events on their way, and nothing else but for its reply. -/
theorem submit_song {i : Instr} {take : State → State × Reply} {s : State} {f : Song → Song} {r : Reply}
    (wf : i.wf = true) (h : s.ready) (taken : take s = (s.mapSong f, r)) (ends : (f s.song).ends = s.song.ends) :
    s.submit i take = (s.mapSong f).replied r :=
  submit_eq wf h taken ends rfl rfl rfl rfl

section
variable {mask : Byte} {start : Word} {s : State}

theorem takeSongArm_beyond (beyond : 15 < mask.toNat) :
    takeSongArm mask start s = (s, replyFor (.songArm mask start) .badValue []) :=
  if_pos ((namesBeyondFour_iff mask).mpr beyond)

/-- R137: the checks of the song's state and of the stations that the mask names. -/
theorem takeSongArm_state (within : mask.toNat ≤ 15)
    (bad : s.songActive ∨ mask = 0 ∨ ∃ k : StationId, mask.getLsbD k.val = true ∧ (s.station k).state ≠ .loaded) :
    takeSongArm mask start s = (s, replyFor (.songArm mask start) .state []) := by
  refine (if_neg (Bool.eq_false_iff.mp (namesBeyondFour_within within))).trans ?_
  by_cases active : s.songActive
  · exact if_pos ((active_iff s).mpr active)
  · refine (if_neg (mt (active_iff s).mp active)).trans (if_pos ?_)
    rw [Bool.or_eq_true, decide_eq_true_eq, Bool.not_eq_true', ← Bool.not_eq_true, allLoaded_iff]
    rcases (bad.resolve_left active) with empty | ⟨k, named, notLoaded⟩
    · exact .inl ((stationMaskOf_eq_zero within).mpr empty)
    · exact .inr fun all => notLoaded (all k ((has_stationMaskOf mask k).trans named))

theorem takeSongArm_taken (within : mask.toNat ≤ 15) (idle : ¬ s.songActive) (some : mask ≠ 0)
    (loaded : ∀ k : StationId, mask.getLsbD k.val = true → (s.station k).state = .loaded) :
    takeSongArm mask start s =
      (s.mapSong (Song.arm (stationMaskOf mask) start.toInt), replyFor (.songArm mask start) .ok []) := by
  refine (if_neg (Bool.eq_false_iff.mp (namesBeyondFour_within within))).trans
    ((if_neg (mt (active_iff s).mp idle)).trans (if_neg ?_))
  rw [Bool.or_eq_true, decide_eq_true_eq, Bool.not_eq_true', ← Bool.not_eq_true, allLoaded_iff, not_or, not_not,
    stationMaskOf_eq_zero within]
  exact ⟨some, fun k named => loaded k ((has_stationMaskOf mask k).symm.trans named)⟩

end

theorem latchStart_armed {s : State} (armed : s.song.state = .armed) :
    s.latchStart = s.mapSong fun g => { g with latch := true } := if_pos armed

theorem latchStart_ignored {s : State} (other : s.song.state ≠ .armed) : s.latchStart = s := if_neg other

theorem takeSongGo_armed {s : State} (armed : s.song.state = .armed) :
    takeSongGo s = (s.mapSong fun g => { g with latch := true }, replyFor .songGo .ok []) :=
  (if_pos armed).trans (by rw [latchStart_armed armed])

theorem takeSongGo_refused {s : State} (other : s.song.state ≠ .armed) :
    takeSongGo s = (s, replyFor .songGo .state []) := if_neg other

/-- Settles O49: the checks of SONG_ARM in order, and the two start requests by whether the song is ARMED. -/
theorem songArmAndStartRequests : Obligations.SongArmAndStartRequests := by
  unfold Obligations.SongArmAndStartRequests
  refine ⟨fun mask start s ready => ⟨fun beyond => congrArg _ (submit_refused rfl ready (takeSongArm_beyond beyond)),
    fun within => ⟨fun bad => congrArg _ (submit_refused rfl ready (takeSongArm_state within bad)),
      fun idle some loaded => congrArg _ (submit_song rfl ready (takeSongArm_taken within idle some loaded) rfl)⟩⟩,
    fun s => ⟨fun armed => congrArg _ (latchStart_armed armed), fun other => congrArg _ (latchStart_ignored other),
      fun ready armed => congrArg _ (submit_song rfl ready (takeSongGo_armed armed) rfl),
      fun ready other => congrArg _ (submit_refused rfl ready (takeSongGo_refused other))⟩⟩

/-! ### SONG_ABORT by the song's state (R144) -/

section
variable {c : Byte} {n : Half} {s : State}

theorem takeSongAbort_beyond (beyond : 15 < c.toNat) :
    takeSongAbort c n s = (s, replyFor (.songAbort c n) .badValue []) :=
  if_pos ((namesBeyondFour_iff c).mpr beyond)

theorem takeSongAbort_idle (within : c.toNat ≤ 15) (idle : s.song.state = .stopped ∨ s.song.state = .finished) :
    takeSongAbort c n s = (s, replyFor (.songAbort c n) .notRunning []) := by
  rcases idle with state | state <;>
    simp only [takeSongAbort, namesBeyondFour_within within, state, Bool.false_eq_true, if_false]

theorem takeSongAbort_disarm (within : c.toNat ≤ 15) (armed : s.song.state = .armed) (now : c.getLsbD 0 = true) :
    takeSongAbort c n s = (s.mapSong Song.disarm, replyFor (.songAbort c n) .ok []) := by
  simp only [takeSongAbort, namesBeyondFour_within within, armed, Bool.false_eq_true, if_false, abortSetOf, now, if_true]

/-- R144: without NOW the conditions wait, in every state of an active song. -/
theorem takeSongAbort_pending (within : c.toNat ≤ 15) (active : s.songActive) (later : c.getLsbD 0 = false) :
    takeSongAbort c n s =
      (s.mapSong fun g => { g with abortSet := abortSetOf c, abortMeasure := n }, replyFor (.songAbort c n) .ok []) := by
  have notNow : (abortSetOf c).now = false := later
  rcases active with state | state | state <;>
    simp only [takeSongAbort, namesBeyondFour_within within, state, notNow, Bool.false_eq_true, if_false]

theorem takeSongAbort_now (within : c.toNat ≤ 15) (underWay : s.song.state = .running ∨ s.song.state = .halted)
    (now : c.getLsbD 0 = true) :
    takeSongAbort c n s = (s.abortSong .aborted, replyFor (.songAbort c n) .ok []) := by
  rcases underWay with state | state <;>
    simp only [takeSongAbort, namesBeyondFour_within within, state, Bool.false_eq_true, if_false, abortSetOf, now, if_true]

end

/-! ### The abort of a song under way (R145) -/

/-- R57: what the entry into an end state leaves of a station's record. -/
theorem enterEnd_record (k : StationId) (e : EndState) (s : State) :
    EndRecord e (s.station k) (((s.enterEnd k e).1).station k) := by
  obtain ⟨point, u, _, drawn, entered⟩ := enterEnd_spec k e s
  rw [entered, (endTrigger_aside k e u).station k, drawn.station k]
  exact endPushed_record k e s

theorem enterEnd_context (j k : StationId) (e : EndState) (s : State) :
    (((s.enterEnd k e).1).station j).context = (s.station j).context := by
  by_cases same : j = k
  · rw [same]
    exact (enterEnd_record k e s).context
  · rw [(enterEnd_own k e s).others j same]

/-- R145: an abort changes no score context. -/
theorem abortStations_context (ks : List StationId) (j : StationId) (s : State) :
    (((abortStations ks s).1).station j).context = (s.station j).context := by
  induction ks generalizing s with
  | nil => rfl
  | cons k rest ih =>
    rw [abortStations_cons, ih]
    exact enterEnd_context j k .aborted s

theorem abortSong_context (cause : FinishCause) (j : StationId) (s : State) :
    ((s.abortSong cause).station j).context = (s.station j).context := by
  have offered : ((s.abortSong cause).station j) = ((abortStations s.armedPlaying s).1.station j) :=
    (offerAny_aside _ _).station j
  rw [offered]
  exact abortStations_context _ j s

/-- R145: an abort puts nothing on its way: where nothing was, there is nothing to take. -/
theorem abortSong_quiescent {s : State} (cause : FinishCause) (h : s.quiescent) : (s.abortSong cause).quiescent := by
  obtain ⟨none, outbox⟩ := (quiescent_iff s).mp h
  exact (quiescent_iff _).mpr ⟨(abortSong_due cause s).trans none, (abortSong_moves cause s).moves.outbox_none outbox⟩

theorem Reported.aside {s t : State} (h : Reported s t) : Aside s t :=
  ⟨(congrArg State.stations h.rest :), (congrArg State.song h.rest :), (congrArg State.refTime h.rest :)⟩

/-- R178: the reply of a request is in the slot; behind what the request does, the link port alone is touched. -/
theorem answer_reported (take : State → State × Reply) (s : State) :
    Reported (take s).1.flush (s.answer take) ∧ (s.answer take).link.slot = some (take s).2 := by
  obtain ⟨v, drawn, answered⟩ := answer_drawn take s
  rcases answered with first | ⟨_, _, second⟩
  · obtain ⟨reported, slot⟩ := putReply_reported id (take s).2 v
    rw [first]
    exact ⟨drawn.reported.trans reported, slot⟩
  · obtain ⟨reported, slot⟩ := putReply_reported LinkPort.beginReport (take s).2 v
    rw [second]
    exact ⟨drawn.reported.trans reported, slot⟩

/-- A request and its reply make inner moves where the taking of the request does. -/
theorem answer_innerMoves {take : State → State × Reply} {s : State} (h : InnerMoves s (take s).1) :
    InnerMoves s (s.answer take) := h.trans (finishReply_moves _ _ _)

/-- R145: SONG_ABORT with NOW in a song under way, answered. -/
theorem songAbort_now {c : Byte} {n : Half} {s : State} (ready : s.ready) (within : c.toNat ≤ 15)
    (underWay : s.song.state = .running ∨ s.song.state = .halted) (now : c.getLsbD 0 = true) :
    ∃ t, exec (.songAbort c n) s = .next t ∧ InnerMoves s t ∧ Aside (s.abortSong .aborted) t ∧
      t.link.slot = some (replyFor (.songAbort c n) .ok []) := by
  obtain ⟨reported, slot⟩ := answer_reported (takeSongAbort c n) s
  rw [takeSongAbort_now within underWay now] at reported slot
  rw [flush_quiescent (abortSong_quiescent .aborted ready.2)] at reported
  exact ⟨s.answer (takeSongAbort c n), congrArg Host.Outcome.next (submit_open rfl ready.1),
    answer_innerMoves (takeSongAbort_moves c n s), reported.aside, slot⟩

/-! ### Measure pulses and station end events in song control (R144, R146) -/

section
variable {m : Half} {e : EndState} {s : State}

theorem takePulse_aborts (underWay : s.song.state = .running ∨ s.song.state = .halted)
    (due : s.song.abortSet.atMeasure = true ∨ (s.song.abortSet.atMeasureN = true ∧ m = s.song.abortMeasure)) :
    s.takePulse m = s.abortSong .aborted := by
  refine if_pos ?_
  rw [Bool.and_eq_true, underWay_iff, Bool.or_eq_true, Bool.and_eq_true, decide_eq_true_eq]
  exact ⟨underWay, due⟩

theorem takePulse_passes
    (none : s.song.abortSet.atMeasure = false ∧ (s.song.abortSet.atMeasureN = false ∨ m ≠ s.song.abortMeasure)) :
    s.takePulse m = s := by
  obtain ⟨atMeasure, atMeasureN⟩ := none
  refine if_neg ?_
  rw [Bool.and_eq_true, Bool.or_eq_true, Bool.and_eq_true, decide_eq_true_eq, atMeasure]
  rintro ⟨_, due | ⟨set, here⟩⟩
  · cases due
  · rcases atMeasureN with clear | other
    · exact absurd (clear.symm.trans set) nofun
    · exact other here

theorem takePulse_over (ended : s.song.state.underWay = false) : s.takePulse m = s :=
  if_neg (by rw [ended, Bool.false_and]; exact Bool.false_ne_true)

theorem takeEnd_over (ended : s.song.state.underWay = false) : s.takeEnd e = s :=
  if_neg (by rw [ended]; exact Bool.false_ne_true)

theorem takeEnd_onFail (underWay : s.song.state.underWay = true) (failed : e = .failed)
    (onFail : s.song.abortSet.onFail = true) : s.takeEnd e = s.abortSong .aborted :=
  (if_pos underWay).trans (if_pos (by rw [failed, onFail]; rfl))

/-- R146: an end event that aborts nothing finishes the song where no station of the armed set is PLAYING. -/
theorem takeEnd_noAbort (underWay : s.song.state.underWay = true)
    (other : e ≠ .failed ∨ s.song.abortSet.onFail = false) :
    s.takeEnd e = if s.armedPlaying.isEmpty then s.finishSong else s := by
  refine (if_pos underWay).trans (if_neg ?_)
  rw [Bool.and_eq_true, decide_eq_true_eq]
  rintro ⟨failed, onFail⟩
  rcases other with notFailed | clear
  · exact notFailed failed
  · exact absurd (clear.symm.trans onFail) nofun

theorem armedPlaying_isEmpty :
    s.armedPlaying.isEmpty = true ↔ ∀ k, StationSet.has s.song.armed k = true → (s.station k).state ≠ .playing := by
  simp only [List.isEmpty_iff, List.eq_nil_iff_forall_not_mem, mem_armedPlaying, not_and, ne_eq]

end

/-- Settles O50: SONG_ABORT by the song's state, `songAbort_now` with `abortSong_spec` for the abort, and song control's part in
a pulse and an end event. -/
theorem songAbortPulsesAndEndEvents : Obligations.SongAbortPulsesAndEndEvents := by
  unfold Obligations.SongAbortPulsesAndEndEvents
  refine ⟨fun c n s ready => ⟨fun beyond => congrArg _ (submit_refused rfl ready (takeSongAbort_beyond beyond)),
    fun within => ⟨fun idle => congrArg _ (submit_refused rfl ready (takeSongAbort_idle within idle)),
      fun armed now => congrArg _ (submit_song rfl ready (takeSongAbort_disarm within armed now) rfl),
      fun active later => congrArg _ (submit_song rfl ready (takeSongAbort_pending within active later) rfl),
      fun underWay now => ?_⟩⟩, fun m e s => ⟨takePulse_aborts, fun ended => ?_, takePulse_passes,
    fun underWay => takeEnd_onFail (underWay_iff.mpr underWay), fun underWay other => ?_⟩⟩
  · obtain ⟨t, next, moves, aside, slot⟩ := songAbort_now (n := n) ready within underWay now
    obtain ⟨shared, time, clock, scanner⟩ := moves.framed
    obtain ⟨_, song, aborted, others⟩ := abortSong_spec .aborted s
    rw [← aside.song] at song
    have ended : ∀ k, s.song.armed.getLsbD k.val = true → (s.station k).state = .playing →
        (t.station k).state = .aborted ∧ (t.station k).queue = [] ∧ (t.station k).context = (s.station k).context := by
      intro k armed playing
      obtain ⟨state, queue, _⟩ := aborted k armed playing
      rw [aside.station k]
      exact ⟨state, queue, abortSong_context .aborted k s⟩
    refine ⟨t, next, shared, clock, scanner, time, slot, ?_, ?_, ?_, ?_, ?_, ended,
      fun k out => (aside.station k).trans (others k out)⟩ <;>
      (rw [song]; rfl)
  · have ended : s.song.state.underWay = false := by
      rw [← Bool.not_eq_true, underWay_iff, not_or]
      exact ended
    exact ⟨takePulse_over ended, takeEnd_over ended⟩
  · have taken := takeEnd_noAbort (underWay_iff.mpr underWay) other
    refine ⟨fun ⟨k, armed, playing⟩ => taken.trans (if_neg fun none => ?_), fun none => ?_⟩
    · exact armedPlaying_isEmpty.mp none k armed playing
    · rw [taken.trans (if_pos (armedPlaying_isEmpty.mpr none)), (finishSong_aside s).song, (finishSong_aside s).stations]
      exact ⟨rfl, rfl, (finishSong_moves s).framed.clock⟩

end Sys2Proof.Machine
end

section
/-! SUPPORT. One cue channel (R153, R160 to R164): how its step starts on a line, how it takes a trigger, and how its running
step expires, each by the channel's state, mode and policy. -/

namespace Sys2Proof.Machine

/-- Two updates of one channel are one update. -/
theorem CueEngine.mapChannel_mapChannel (c : ChannelId) (f g : CueChannel → CueChannel) (e : CueEngine) :
    (e.mapChannel c f).mapChannel c g = e.mapChannel c fun ch => g (f ch) := by
  simp [CueEngine.mapChannel]

@[simp] theorem CueEngine.releaseStep_channels (c : ChannelId) (r : RunningStep) (e : CueEngine) :
    (e.releaseStep c r).channels = e.channels := by
  unfold CueEngine.releaseStep
  split <;> rfl

@[simp] theorem CueEngine.releaseStep_memory (c : ChannelId) (r : RunningStep) (e : CueEngine) :
    (e.releaseStep c r).memory = e.memory := by
  unfold CueEngine.releaseStep
  split <;> rfl

section
variable {now : Nat} {c : ChannelId} {record : TriggerRec} {r : RunningStep} {e : CueEngine}

theorem releaseRunning_stepping (state : (e.channels[c]).state = .stepping r) :
    e.releaseRunning c = e.releaseStep c r := by
  simp only [CueEngine.releaseRunning, CueChannel.running, state]

/-! ### The start of a step (R162) -/

@[simp] theorem startStep_memory : (e.startStep now c record).memory = e.memory := rfl

/-- R162, step 2: the line that the step at the pointer of channel c drives. -/
def CueEngine.startLine (c : ChannelId) (record : TriggerRec) (e : CueEngine) : LineId :=
  (e.channels[c]).resolve e.memory[(e.channels[c]).config.slot (e.channels[c]).pointer] record

/-- R153, R162: of the lines only the one that the step drives is touched. -/
theorem startStep_lines :
    (e.startStep now c record).lines =
      (e.mapLine (e.startLine c record) fun l =>
        { l with
          current := (e.memory[(e.channels[c]).config.slot (e.channels[c]).pointer]).level,
          owner := some { channel := c, serial := (e.channels[c]).serial + 1 } }).lines := rfl

theorem startStep_line_same :
    (e.startStep now c record).lines[e.startLine c record] =
      { base := (e.lines[e.startLine c record]).base,
        current := (e.memory[(e.channels[c]).config.slot (e.channels[c]).pointer]).level,
        owner := some { channel := c, serial := (e.channels[c]).serial + 1 } } := by
  rw [startStep_lines, CueEngine.mapLine_same]

theorem startStep_line_ne {n : LineId} (other : n ≠ e.startLine c record) :
    (e.startStep now c record).lines[n] = e.lines[n] := by
  rw [startStep_lines, CueEngine.mapLine_ne other]

theorem startStep_channel_same :
    (e.startStep now c record).channels[c] =
      let step := e.memory[(e.channels[c]).config.slot (e.channels[c]).pointer]
      let serial := (e.channels[c]).serial + 1
      { e.channels[c] with
        serial := serial, lastLine := some (e.startLine c record),
        state := .stepping { step := step, line := e.startLine c record, serial := serial, record := record,
                             expiry := now + step.duration * cyclesPerMs } } :=
  CueEngine.mapChannel_same c _ (e.mapLine (e.startLine c record) _)

theorem startStep_channel_ne {d : ChannelId} (other : d ≠ c) :
    (e.startStep now c record).channels[d] = e.channels[d] := CueEngine.mapChannel_ne other _ _

end

section
variable {ch : CueChannel} {step : CueStep} {record : TriggerRec}

theorem resolve_fixed (mode : step.mode = .fixed) : ch.resolve step record = step.line := by
  simp only [CueChannel.resolve, mode]

theorem resolve_lamp {k : StationId} {l : LaneId} (mode : step.mode = .triggerLane) :
    ch.resolve step { station := some k, lane := some l } = lampOf k l := by
  simp only [CueChannel.resolve, mode]

/-- R162: a trigger that carries no lane leaves TRIGGER_LANE with the target line. -/
theorem resolve_noLane (mode : step.mode = .triggerLane) (none : record.lane = none) :
    ch.resolve step record = step.line := by
  simp only [CueChannel.resolve, mode, none]
  cases record.station <;> rfl

theorem resolve_first (mode : step.mode = .advance) (first : ch.pointer = 0 ∨ ch.lastLine = none) :
    ch.resolve step record = step.line := by
  simp only [CueChannel.resolve, mode]
  split
  · rfl
  · rename_i last
    exact if_pos (first.resolve_right (by rw [last]; exact nofun))

theorem resolve_advance {n : LineId} (mode : step.mode = .advance) (later : ch.pointer ≠ 0) (last : ch.lastLine = some n) :
    ch.resolve step record = nextLine n := by
  simp only [CueChannel.resolve, mode, last, later, if_false]

theorem nextLine_val (n : LineId) : (nextLine n).val = if n.val = 47 then 0 else n.val + 1 := by
  unfold nextLine
  split <;> simp only <;> omega

end

/-! ### A trigger taken by a channel (R160, R161) -/

section
variable {now : Nat} {c : ChannelId} {record : TriggerRec} {r : RunningStep} {e : CueEngine}

theorem takeTrigger_ignored (idle : (e.channels[c]).state = .off ∨ (e.channels[c]).state = .done) :
    e.takeTrigger now c record = (e, []) := by
  rcases idle with state | state <;> simp only [CueEngine.takeTrigger, state]

theorem takeTrigger_armed (state : (e.channels[c]).state = .armed) :
    e.takeTrigger now c record = (e.startStep now c record, []) := by
  simp only [CueEngine.takeTrigger, state]

theorem takeTrigger_single (state : (e.channels[c]).state = .stepping r) (mode : (e.channels[c]).config.mode = .single) :
    e.takeTrigger now c record = e.enqueueTrigger c record := by
  simp only [CueEngine.takeTrigger, state, mode]

theorem takeTrigger_dropped (state : (e.channels[c]).state = .stepping r) (mode : (e.channels[c]).config.mode = .run)
    (policy : (e.channels[c]).config.retrigger = .ignore) : e.takeTrigger now c record = (e, []) := by
  simp only [CueEngine.takeTrigger, state, mode, policy]

theorem takeTrigger_restart (state : (e.channels[c]).state = .stepping r) (mode : (e.channels[c]).config.mode = .run)
    (policy : (e.channels[c]).config.retrigger = .restart) :
    e.takeTrigger now c record =
      (((e.releaseStep c r).mapChannel c fun ch => { ch with pointer := 0 }).startStep now c record, []) := by
  simp only [CueEngine.takeTrigger, state, mode, policy, CueEngine.restart, releaseRunning_stepping state]

theorem enqueueTrigger_waits (room : (e.channels[c]).waiting.length < 7) :
    e.enqueueTrigger c record = (e.mapChannel c fun ch => { ch with waiting := ch.waiting ++ [record] }, []) :=
  if_pos room

theorem enqueueTrigger_overrun (full : 7 ≤ (e.channels[c]).waiting.length) (clear : (e.channels[c]).overrun = false) :
    e.enqueueTrigger c record = (e.mapChannel c fun ch => { ch with overrun := true }, [.cueOverrun c]) :=
  (if_neg (Nat.not_lt.mpr full)).trans (if_neg (by rw [clear]; exact Bool.false_ne_true))

theorem enqueueTrigger_dropped (full : 7 ≤ (e.channels[c]).waiting.length) (set : (e.channels[c]).overrun = true) :
    e.enqueueTrigger c record = (e, []) :=
  (if_neg (Nat.not_lt.mpr full)).trans (if_pos set)

end

/-- Settles O55: the five cases of a taken trigger, and the start of a step by `startLine` with the line that each target
mode resolves to. -/
theorem channelTakesATrigger : Obligations.ChannelTakesATrigger := by
  unfold Obligations.ChannelTakesATrigger
  refine fun now c record e => ⟨takeTrigger_ignored, takeTrigger_armed, fun r state => ⟨?_, ?_, ?_, ?_, ?_⟩,
    e.startLine c record, resolve_fixed, ?_, resolve_noLane, resolve_first, ?_, startStep_line_same,
    fun n => startStep_line_ne, startStep_memory, fun d => startStep_channel_ne, startStep_channel_same⟩
  · exact fun mode room => (takeTrigger_single state mode).trans (enqueueTrigger_waits room)
  · exact fun mode full clear => (takeTrigger_single state mode).trans (enqueueTrigger_overrun full clear)
  · exact fun mode full set => (takeTrigger_single state mode).trans (enqueueTrigger_dropped full set)
  · exact takeTrigger_dropped state
  · exact takeTrigger_restart state
  · rintro k l mode rfl
    exact congrArg Fin.val (resolve_lamp mode)
  · exact fun n mode later last => (congrArg Fin.val (resolve_advance mode later last)).trans (nextLine_val n)

/-! ### The expiry of a running step (R163, R164) -/

/-- R163, steps 1 and 3: the line of the ended step is released, and the pointer of channel c rises. -/
def CueEngine.passed (c : ChannelId) (r : RunningStep) (e : CueEngine) : CueEngine :=
  (e.releaseStep c r).mapChannel c fun ch => { ch with pointer := ch.pointer + 1 }

section
variable {now : Nat} {c : ChannelId} {record : TriggerRec} {r : RunningStep} {e : CueEngine}

theorem passed_channel :
    (e.passed c r).channels[c] = { e.channels[c] with pointer := (e.channels[c]).pointer + 1 } := by
  rw [CueEngine.passed, CueEngine.mapChannel_same, CueEngine.releaseStep_channels]

theorem expire_goesOn (more : (e.channels[c]).pointer + 1 < (e.channels[c]).config.count) :
    e.expire now c r =
      { cue := (e.passed c r).goOn now c r.record, notices := [], triggers := [.channelStep c r.record] } := by
  show ite ((e.passed c r).channels[c].config.count ≤ (e.passed c r).channels[c].pointer) _ _ = _
  rw [passed_channel]
  exact if_neg (Nat.not_le.mpr more)

theorem expire_endsList (last : (e.channels[c]).config.count ≤ (e.channels[c]).pointer + 1) :
    e.expire now c r =
      { cue := (e.passed c r).listEnd now c r.record, notices := [.cueDone c (e.channels[c]).config.endAction],
        triggers := [.channelStep c r.record, .channelDone c r.record] } := by
  show ite ((e.passed c r).channels[c].config.count ≤ (e.passed c r).channels[c].pointer)
    (Expiry.mk _ [.cueDone c (e.passed c r).channels[c].config.endAction] _) _ = _
  rw [passed_channel]
  exact if_pos last

theorem goOn_run (mode : (e.channels[c]).config.mode = .run) : e.goOn now c record = e.startStep now c record := by
  simp only [CueEngine.goOn, mode]

theorem goOn_waits (mode : (e.channels[c]).config.mode = .single) (none : (e.channels[c]).waiting = []) :
    e.goOn now c record = e.mapChannel c fun ch => { ch with state := .armed } := by
  simp only [CueEngine.goOn, mode, none]

theorem goOn_next {w : TriggerRec} {rest : List TriggerRec} (mode : (e.channels[c]).config.mode = .single)
    (next : (e.channels[c]).waiting = w :: rest) :
    e.goOn now c record = (e.mapChannel c fun ch => { ch with waiting := rest }).startStep now c w := by
  simp only [CueEngine.goOn, mode, next]

theorem listEnd_stop (endAction : (e.channels[c]).config.endAction = .stop) :
    e.listEnd now c record = e.mapChannel c fun ch => { ch with pointer := 0, waiting := [], state := .done } := by
  simp only [CueEngine.listEnd, CueEngine.mapChannel_same, endAction, CueEngine.mapChannel_mapChannel]

/-- R164: a LOOP list starts again from its first step. -/
theorem listEnd_loop (endAction : (e.channels[c]).config.endAction = .loop) :
    e.listEnd now c record = (e.mapChannel c fun ch => { ch with pointer := 0 }).goOn now c record := by
  simp only [CueEngine.listEnd, CueEngine.mapChannel_same, endAction]

end

end Sys2Proof.Machine
end

section
/-! SUPPORT. Triggers and expiries at the part (R159, R163 to R165): the configuration of a channel as CUE_CHANNEL_SET carries
it, which channels are handed a trigger, and how they take it, in some order. -/

namespace Sys2Proof.Machine

/-! ### The checks of a configuration (R158) -/

theorem cueModeOf_some {b : Byte} (low : b.toNat ≤ 1) : ∃ mode, cueModeOf b = some mode ∧ mode.code = b.toNat := by
  have : b = 0#8 ∨ b = 1#8 := by bv_omega
  rcases this with rfl | rfl <;> exact ⟨_, rfl, rfl⟩

theorem cueModeOf_none {b : Byte} (beyond : 1 < b.toNat) : cueModeOf b = none := by
  grind [cueModeOf]

theorem endActionOf_some {b : Byte} (low : b.toNat ≤ 1) : ∃ action, endActionOf b = some action ∧ action.code = b.toNat := by
  have : b = 0#8 ∨ b = 1#8 := by bv_omega
  rcases this with rfl | rfl <;> exact ⟨_, rfl, rfl⟩

theorem endActionOf_none {b : Byte} (beyond : 1 < b.toNat) : endActionOf b = none := by
  grind [endActionOf]

theorem retriggerOf_some {b : Byte} (low : b.toNat ≤ 1) :
    ∃ policy, retriggerOf b = some policy ∧ (policy = .restart ↔ b = 0#8) := by
  have : b = 0#8 ∨ b = 1#8 := by bv_omega
  rcases this with rfl | rfl <;> exact ⟨_, rfl, by decide⟩

theorem retriggerOf_none {b : Byte} (beyond : 1 < b.toNat) : retriggerOf b = none := by
  grind [retriggerOf]

/-- R156: a byte reads as the trigger source whose code it is. -/
theorem triggerSourceOf_iff {b : Byte} {source : TriggerSource} :
    triggerSourceOf b = some source ↔ b.toNat = source.code := by
  constructor
  · intro read
    unfold triggerSourceOf at read
    split at read <;> cases read <;> assumption
  · intro coded
    cases source <;> simp only [triggerSourceOf, coded, TriggerSource.code]

theorem triggerSourceOf_eq_none {b : Byte} : triggerSourceOf b = none ↔ 8 < b.toNat := by
  grind [triggerSourceOf]

theorem triggerSourceOf_some {b : Byte} (low : b.toNat ≤ 8) : ∃ source, triggerSourceOf b = some source :=
  Option.ne_none_iff_exists'.mp (mt triggerSourceOf_eq_none.mp (Nat.not_lt.mpr low))

theorem source_eq_iff {b : Byte} {source : TriggerSource} (read : triggerSourceOf b = some source) (other : TriggerSource) :
    source = other ↔ b.toNat = other.code :=
  ⟨fun same => same ▸ triggerSourceOf_iff.mp read,
    fun coded => Option.some.inj (read.symm.trans (triggerSourceOf_iff.mpr coded))⟩

/-- R158, checks 4 to 6, on the values of a configuration. -/
theorem sourceOk_iff (cfg : CueConfig) :
    cfg.sourceOk = true ↔
      (cfg.source = .result → cfg.stations ≠ 0 ∧ cfg.lanes ≠ 0 ∧ cfg.results ≠ 0) ∧
        (cfg.source = .stationEnd → cfg.stations ≠ 0) ∧
        (cfg.source = .channelStep ∨ cfg.source = .channelDone → cfg.k.toNat ≤ 7) := by
  unfold CueConfig.sourceOk
  cases cfg.source <;> simp [and_assoc]

/-- R158, checks 4 to 6, on a configuration as it comes: its source asks for more than it carries. -/
def SourceLacks (r : ChannelRec) : Prop :=
  (r.source = 3#8 ∧ (r.stationMask.extractLsb' 0 4 = 0 ∨ r.laneMask.extractLsb' 0 9 = 0 ∨ r.resultSet = 0)) ∨
    (r.source = 4#8 ∧ r.stationMask.extractLsb' 0 4 = 0) ∨
    ((r.source = 7#8 ∨ r.source = 8#8) ∧ 7 < r.sourceChannel.toNat)

/-- The configuration of a request whose four coded fields have been read. -/
def configWith (r : ChannelRec) (mode : CueMode) (endAction : EndAction) (retrigger : Retrigger)
    (source : TriggerSource) : CueConfig :=
  { first := ⟨r.firstStep.toNat % 256, Nat.mod_lt _ (by omega)⟩, count := r.stepCount.toNat, mode := mode,
    endAction := endAction, retrigger := retrigger, source := source, stations := stationMaskOf r.stationMask,
    lanes := laneMaskOf r.laneMask, results := r.resultSet, k := r.sourceChannel }

section
variable {r : ChannelRec} {mode : CueMode} {endAction : EndAction} {retrigger : Retrigger} {source : TriggerSource}

theorem sourceOk_configWith (read : triggerSourceOf r.source = some source) :
    (configWith r mode endAction retrigger source).sourceOk = true ↔ ¬ SourceLacks r := by
  have named := fun (other : TriggerSource) (b : Byte) (code : b.toNat = other.code) =>
    (source_eq_iff read other).trans (by rw [← code, BitVec.toNat_inj] : _ ↔ r.source = b)
  rw [sourceOk_iff]
  simp only [configWith, named .result 3#8 rfl, named .stationEnd 4#8 rfl, named .channelStep 7#8 rfl,
    named .channelDone 8#8 rfl, stationMaskOf, laneMaskOf, SourceLacks, not_or, not_and, not_lt, ne_eq]

/-- R158: with the coded fields read, the step count and the source's demands decide. -/
theorem cueConfigOf_read (hasMode : cueModeOf r.mode = some mode) (hasEnd : endActionOf r.endAction = some endAction)
    (hasRetrigger : retriggerOf r.retrigger = some retrigger) (hasSource : triggerSourceOf r.source = some source) :
    cueConfigOf r =
      if 1 ≤ r.stepCount.toNat ∧ r.stepCount.toNat ≤ 256 ∧ (configWith r mode endAction retrigger source).sourceOk
      then some (configWith r mode endAction retrigger source) else none := by
  simp only [cueConfigOf, hasMode, hasEnd, hasRetrigger, hasSource]
  rfl

/-- R158, check 3: a coded field that is not one of its values. -/
theorem cueConfigOf_unread
    (unread : 1 < r.mode.toNat ∨ 1 < r.endAction.toNat ∨ 1 < r.retrigger.toNat ∨ 8 < r.source.toNat) :
    cueConfigOf r = none := by
  unfold cueConfigOf
  split
  · rename_i hasMode hasEnd hasRetrigger hasSource
    rcases unread with bad | bad | bad | bad
    · exact absurd ((cueModeOf_none bad).symm.trans hasMode) nofun
    · exact absurd ((endActionOf_none bad).symm.trans hasEnd) nofun
    · exact absurd ((retriggerOf_none bad).symm.trans hasRetrigger) nofun
    · exact absurd ((triggerSourceOf_eq_none.mpr bad).symm.trans hasSource) nofun
  · rfl

/-- R158: a configuration that fails one of the checks 2 to 6. -/
theorem cueConfigOf_none
    (bad : r.stepCount.toNat = 0 ∨ 256 < r.stepCount.toNat ∨ 1 < r.mode.toNat ∨ 1 < r.endAction.toNat ∨
      1 < r.retrigger.toNat ∨ 8 < r.source.toNat ∨ SourceLacks r) : cueConfigOf r = none := by
  by_cases unread : 1 < r.mode.toNat ∨ 1 < r.endAction.toNat ∨ 1 < r.retrigger.toNat ∨ 8 < r.source.toNat
  · exact cueConfigOf_unread unread
  · simp only [not_or, not_lt] at unread
    obtain ⟨lowMode, lowEnd, lowRetrigger, lowSource⟩ := unread
    obtain ⟨mode, hasMode, _⟩ := cueModeOf_some lowMode
    obtain ⟨endAction, hasEnd, _⟩ := endActionOf_some lowEnd
    obtain ⟨retrigger, hasRetrigger, _⟩ := retriggerOf_some lowRetrigger
    obtain ⟨source, hasSource⟩ := triggerSourceOf_some lowSource
    rw [cueConfigOf_read hasMode hasEnd hasRetrigger hasSource]
    refine if_neg fun ⟨nonzero, within, ok⟩ => ?_
    have demands := (sourceOk_configWith hasSource).mp ok
    simp only [demands, or_false] at bad
    omega

/-- R158: the values that a configuration stores where its checks pass. -/
theorem cueConfigOf_some (some : 1 ≤ r.stepCount.toNat) (within : r.stepCount.toNat ≤ 256) (lowMode : r.mode.toNat ≤ 1)
    (lowEnd : r.endAction.toNat ≤ 1) (lowRetrigger : r.retrigger.toNat ≤ 1) (lowSource : r.source.toNat ≤ 8)
    (demands : ¬ SourceLacks r) :
    ∃ mode endAction retrigger source, cueConfigOf r = .some (configWith r mode endAction retrigger source) ∧
      mode.code = r.mode.toNat ∧ endAction.code = r.endAction.toNat ∧ (retrigger = .restart ↔ r.retrigger = 0#8) ∧
      source.code = r.source.toNat := by
  obtain ⟨mode, hasMode, codedMode⟩ := cueModeOf_some lowMode
  obtain ⟨endAction, hasEnd, codedEnd⟩ := endActionOf_some lowEnd
  obtain ⟨retrigger, hasRetrigger, policy⟩ := retriggerOf_some lowRetrigger
  obtain ⟨source, hasSource⟩ := triggerSourceOf_some lowSource
  refine ⟨mode, endAction, retrigger, source, ?_, codedMode, codedEnd, policy, (triggerSourceOf_iff.mp hasSource).symm⟩
  rw [cueConfigOf_read hasMode hasEnd hasRetrigger hasSource]
  exact if_pos ⟨some, within, (sourceOk_configWith hasSource).mpr demands⟩

end

/-! ### Who is handed a trigger, and with which record (R159) -/

section
variable {cfg : CueConfig} {c d : ChannelId} {k : StationId}

theorem takes_linkFire : cfg.takes c (.linkFire d) = true ↔ cfg.source = .linkFire ∧ d = c := by
  simp only [CueConfig.takes, Bool.and_eq_true, decide_eq_true_eq]

theorem takes_chartMark : cfg.takes c (.chartMark d) = true ↔ cfg.source = .chartMark ∧ d = c := by
  simp only [CueConfig.takes, Bool.and_eq_true, decide_eq_true_eq]

theorem takes_stationEnd :
    cfg.takes c (.stationEnd k) = true ↔ cfg.source = .stationEnd ∧ cfg.stations.getLsbD k.val = true := by
  simp only [CueConfig.takes, StationSet.has, Bool.and_eq_true, decide_eq_true_eq]

theorem takes_result {kind : ResultKind} {lanes : LaneSet} :
    cfg.takes c (.result k kind lanes) = true ↔
      cfg.source = .result ∧ cfg.stations.getLsbD k.val = true ∧ lanes &&& cfg.lanes ≠ 0 ∧
        cfg.results.getLsbD kind.code = true := by
  simp only [CueConfig.takes, StationSet.has, Bool.and_eq_true, decide_eq_true_eq, and_assoc]

theorem takes_channelStep {record : TriggerRec} :
    cfg.takes c (.channelStep d record) = true ↔ cfg.source = .channelStep ∧ cfg.k.toNat = d.val := by
  simp only [CueConfig.takes, Bool.and_eq_true, decide_eq_true_eq]

theorem takes_channelDone {record : TriggerRec} :
    cfg.takes c (.channelDone d record) = true ↔ cfg.source = .channelDone ∧ cfg.k.toNat = d.val := by
  simp only [CueConfig.takes, Bool.and_eq_true, decide_eq_true_eq]

/-- R159: the lowest lane of a set is the one in it that has none of the set below it. -/
theorem lowest_eq {lanes : LaneSet} {l : LaneId} (member : lanes.getLsbD l.val = true)
    (below : ∀ m : LaneId, m.val < l.val → lanes.getLsbD m.val = false) : LaneSet.lowest lanes = some l := by
  refine List.find?_eq_some_iff_getElem.mpr ⟨member, l.val, l.isLt, getElem_allLanes l, fun j before => ?_⟩
  have clear : LaneSet.has lanes (allLanes[j]'(before.trans l.isLt)) = false :=
    (congrArg (LaneSet.has lanes) (getElem_allLanes ⟨j, _⟩)).trans (below ⟨j, before.trans l.isLt⟩ before)
  exact congrArg not clear

end

/-! ### What offers leave -/

theorem Reported.cue {s t : State} (h : Reported s t) : t.cue = s.cue := (congrArg State.cue h.rest :)

theorem Reported.now {s t : State} (h : Reported s t) : t.now = s.now :=
  (congrArg State.now h.rest :)

/-- Offers reach no block but the link port. -/
theorem offerAll_reported {α : Type} (report : α → Report) (as : List α) (s : State) :
    Reported s (as.foldl (fun v a => v.offer (report a)) s) := by
  induction as generalizing s with
  | nil => exact .refl s
  | cons a as ih => exact (offer_reported _ s).trans (ih _)

theorem withCue_now (s : State) (e : CueEngine) : ({ s with cue := e } : State).now = s.now := rfl

/-! ### A trigger raised (R159) -/

/-- R159: channel c takes a trigger that is being handed to several channels; its notices come behind those so far. -/
def handTo (g : Trigger) (time : Int) (acc : State × List Report) (c : ChannelId) : State × List Report :=
  let x := acc.1.cue.takeTrigger acc.1.refTime c g.record
  ({ acc.1 with cue := x.1 }, acc.2 ++ x.2.map (Report.notice time))

/-- A trigger's record delivered to channels one after another. -/
theorem foldl_handTo (g : Trigger) (time : Int) (order : List ChannelId) (u : State) (rs : List Report) :
    order.foldl (handTo g time) (u, rs) =
      ({ u with cue := (CueEngine.deliver u.refTime g.record order u.cue).1 },
        rs ++ (CueEngine.deliver u.refTime g.record order u.cue).2.map (Report.notice time)) := by
  induction order generalizing u rs with
  | nil => simp [CueEngine.deliver]
  | cons c rest ih =>
    rw [List.foldl_cons, handTo, ih]
    simp only [CueEngine.deliver, List.map_append, List.append_assoc]

/-- R159: with no hand-off being taken, every channel that is handed the trigger takes it, in some order. -/
theorem raise_handed {s : State} (g : Trigger) (none : s.outbox = none) :
    ∃ (order : List ChannelId) (u : State), order.Perm (s.cue.takers g) ∧ Drawn s u ∧
      s.raise g = order.foldl (handTo g s.now) (u, []) := by
  obtain ⟨cs, count, drawn⟩ := shuffle_keeps (s.cue.takers g).length (s.cue.takers g) s
  have perm := shuffle_perm (s.cue.takers g).length (s.cue.takers g) s
  rw [raise_eq_handTrigger none, State.handTrigger]
  generalize shuffle (s.cue.takers g).length (s.cue.takers g) s = x at drawn perm
  obtain ⟨order, u⟩ := x
  have now : u.now = s.now := (drawn_of_eq drawn).reported.now
  exact ⟨order, u, perm, drawn_of_eq drawn, by rw [foldl_handTo, ← now]; rfl⟩

/-- Settles O53: `cueConfigOf_none` and `cueConfigOf_some` for the configuration, the `takes_` lemmas with `lowest_eq` for who
is handed a trigger, `raise_handed` and `raise_posts` for how it is taken. -/
theorem cueConfigurationAndItsTriggers : Obligations.CueConfigurationAndItsTriggers := by
  unfold Obligations.CueConfigurationAndItsTriggers
  refine ⟨fun r => ⟨cueConfigOf_none, fun good => ?_⟩, fun cfg c d k kind lanes record => ⟨takes_linkFire, decide_eq_true_iff,
    decide_eq_true_iff, takes_chartMark, takes_stationEnd, takes_result, takes_channelStep, takes_channelDone, rfl, ?_, rfl,
    rfl, fun l member below => ?_⟩, fun g s => ⟨raise_handed g, fun ps posting => raise_posts posting g, rfl⟩⟩
  · simp only [not_or, not_lt] at good
    obtain ⟨some, within, lowMode, lowEnd, lowRetrigger, lowSource, demands⟩ := good
    obtain ⟨mode, endAction, retrigger, source, read, codes⟩ := cueConfigOf_some (Nat.pos_of_ne_zero some) within lowMode
      lowEnd lowRetrigger lowSource (by simpa only [SourceLacks, not_or] using demands)
    obtain ⟨codedMode, codedEnd, policy, codedSource⟩ := codes
    exact ⟨_, read, Nat.mod_eq_of_lt r.firstStep.isLt, rfl, codedMode, codedEnd, policy, codedSource, rfl, rfl, rfl, rfl⟩
  · simp only [List.forall_mem_cons, List.not_mem_nil, false_imp_iff, implies_true, and_true]
    exact ⟨rfl, rfl, rfl, rfl⟩
  · rw [Trigger.record, lowest_eq member below]

/-! ### Notices and chained triggers (R165) -/

/-- R165: channel g.2 takes the trigger g.1, and its notices are offered with a given song time. -/
def State.takeAt (time : Int) (v : State) (g : Trigger × ChannelId) : State :=
  let taken := v.cue.takeTrigger v.refTime g.2 g.1.record
  taken.2.foldl (fun v n => v.offer (.notice time n)) { v with cue := taken.1 }

theorem takeChained_eq (g : Trigger × ChannelId) (s : State) : s.takeChained g = s.takeAt s.now g :=
  takePost_trigger g.1 g.2 s

theorem takeAt_reported (time : Int) (v : State) (g : Trigger × ChannelId) :
    Reported { v with cue := (v.cue.takeTrigger v.refTime g.2 g.1.record).1 } (v.takeAt time g) :=
  offerAll_reported (Report.notice time) _ _

/-- Chained triggers taken one after another carry one song time. -/
theorem takeChainedAll_eq (order : List (Trigger × ChannelId)) (s : State) :
    order.foldl (fun v g => v.takeChained g) s = order.foldl (State.takeAt s.now) s := by
  induction order generalizing s with
  | nil => rw [List.foldl_nil, List.foldl_nil]
  | cons g rest ih =>
    have now : (s.takeAt s.now g).now = s.now :=
      (takeAt_reported s.now s g).now.trans (withCue_now s _)
    rw [List.foldl_cons, List.foldl_cons, takeChained_eq, ih, now]

theorem takeTrigger_memory (now : Nat) (c : ChannelId) (record : TriggerRec) (e : CueEngine) :
    (e.takeTrigger now c record).1.memory = e.memory := by
  cases state : (e.channels[c]).state with
  | off => rw [takeTrigger_ignored (.inl state)]
  | done => rw [takeTrigger_ignored (.inr state)]
  | armed => rw [takeTrigger_armed state, startStep_memory]
  | stepping r =>
    cases mode : (e.channels[c]).config.mode with
    | single =>
      rw [takeTrigger_single state mode, CueEngine.enqueueTrigger]
      split
      · rfl
      · split <;> rfl
    | run =>
      cases policy : (e.channels[c]).config.retrigger with
      | restart => rw [takeTrigger_restart state mode policy, startStep_memory, CueEngine.mapChannel_memory,
          CueEngine.releaseStep_memory]
      | ignore => rw [takeTrigger_dropped state mode policy]

theorem goOn_memory (now : Nat) (c : ChannelId) (ended : TriggerRec) (e : CueEngine) :
    (e.goOn now c ended).memory = e.memory := by
  unfold CueEngine.goOn
  dsimp only
  split <;> rfl

theorem expire_memory (now : Nat) (c : ChannelId) (r : RunningStep) (e : CueEngine) :
    (e.expire now c r).cue.memory = e.memory := by
  have passed : (e.passed c r).memory = e.memory := CueEngine.releaseStep_memory c r e
  rcases Nat.lt_or_ge ((e.channels[c]).pointer + 1) (e.channels[c]).config.count with more | last
  · rw [expire_goesOn more, goOn_memory, passed]
  · rw [expire_endsList last]
    cases endAction : ((e.passed c r).channels[c]).config.endAction with
    | stop => rw [listEnd_stop endAction, CueEngine.mapChannel_memory, passed]
    | loop => rw [listEnd_loop endAction, goOn_memory, CueEngine.mapChannel_memory, passed]

/-- Taken triggers leave cue memory. -/
theorem takeAll_memory (time : Int) (order : List (Trigger × ChannelId)) (s : State) :
    (order.foldl (State.takeAt time) s).cue.memory = s.cue.memory := by
  induction order generalizing s with
  | nil => rfl
  | cons g rest ih =>
    have taken : (s.takeAt time g).cue = (s.cue.takeTrigger s.refTime g.2 g.1.record).1 := (takeAt_reported time s g).cue
    rw [List.foldl_cons, ih, taken, takeTrigger_memory]

/-! ### The expiry at the part (R163 to R165) -/

/-- R165: the expiry of a step taken by the engine, and its notices offered. -/
def State.expired (c : ChannelId) (r : RunningStep) (s : State) : State :=
  let x := s.cue.expire s.refTime c r
  x.notices.foldl (fun v n => v.offer (.notice s.now n)) { s with cue := x.cue }

theorem expired_reported (c : ChannelId) (r : RunningStep) (s : State) :
    Reported { s with cue := (s.cue.expire s.refTime c r).cue } (s.expired c r) :=
  offerAll_reported (Report.notice s.now) _ _

theorem expired_cue (c : ChannelId) (r : RunningStep) (s : State) :
    (s.expired c r).cue = (s.cue.expire s.refTime c r).cue := (expired_reported c r s).cue

theorem expired_now (c : ChannelId) (r : RunningStep) (s : State) : (s.expired c r).now = s.now :=
  (expired_reported c r s).now.trans (withCue_now s _)

/-- R165: behind the notices the chained triggers are taken, in some order. -/
theorem expireStep_spec (c : ChannelId) (r : RunningStep) (s : State) :
    ∃ (order : List (Trigger × ChannelId)) (v : State),
      order.Perm ((s.cue.expire s.refTime c r).triggers.flatMap fun g =>
        ((s.cue.expire s.refTime c r).cue.takers g).map fun d => (g, d)) ∧
      Drawn (s.expired c r) v ∧ s.expireStep c r = order.foldl (State.takeAt s.now) v := by
  have offered : (s.cue.expire s.refTime c r).notices.foldl (fun s n => s.notify n)
      { s with cue := (s.cue.expire s.refTime c r).cue } = s.expired c r := notifyAll_eq _ _
  have step : s.expireStep c r = inAnyOrder State.takeChained ((s.cue.expire s.refTime c r).triggers.flatMap fun g =>
      ((s.expired c r).cue.takers g).map fun d => (g, d)) (s.expired c r) := by
    rw [State.expireStep, offered]
  obtain ⟨order, cs, count, perm, taken⟩ := inAnyOrder_spec State.takeChained
    ((s.cue.expire s.refTime c r).triggers.flatMap fun g => ((s.expired c r).cue.takers g).map fun d => (g, d))
    (s.expired c r)
  rw [expired_cue] at perm
  refine ⟨order, { s.expired c r with choices := cs, choiceCount := count }, perm, rfl, ?_⟩
  rw [step, taken, takeChainedAll_eq]
  exact congrArg (fun time => order.foldl (State.takeAt time) _) (expired_now c r s)

theorem expireStep_aside (c : ChannelId) (r : RunningStep) (s : State) : Aside s (s.expireStep c r) :=
  (cue_aside s _).trans ((foldl_aside (fun s n => notify_aside n s) _ _).trans
    (inAnyOrder_aside (fun (g : Trigger × ChannelId) => takePost_aside (.trigger g.1 g.2)) _ _))

theorem expireStep_memory (c : ChannelId) (r : RunningStep) (s : State) :
    (s.expireStep c r).cue.memory = s.cue.memory := by
  obtain ⟨order, v, _, drawn, taken⟩ := expireStep_spec c r s
  have same : v.cue = (s.expired c r).cue := drawn.reported.cue
  rw [taken, takeAll_memory, same, expired_cue, expire_memory]

theorem stepExpiry_eq {c : ChannelId} {r : RunningStep} {s : State} (state : (s.cue.channels[c]).state = .stepping r) :
    exec (.stepExpiry c) s = .next ((s.advanceTo r.expiry).expireStep c r).settle := by
  show execStepExpiry c s = _
  simp only [execStepExpiry, CueChannel.running, state]

theorem settle_cue (s : State) : s.settle.cue = s.cue := rfl

/-- Settles O56: `expireStep_spec` for the chained triggers and what the event leaves, `expire_goesOn` and `expire_endsList`
for the rows of R163 and R164. -/
theorem stepExpires : Obligations.StepExpires := by
  unfold Obligations.StepExpires
  refine ⟨fun c r s state => ?_, fun now c r e state => ⟨fun more => ?_, fun last => ?_⟩⟩
  · obtain ⟨order, v, perm, drawn, taken⟩ := expireStep_spec c r (s.advanceTo r.expiry)
    have moves : InnerMoves (s.advanceTo r.expiry) _ := (expireStep_moves c r _).trans (settle_moves _)
    obtain ⟨shared, _, clock, scanner⟩ := moves.framed
    have aside := (expireStep_aside c r (s.advanceTo r.expiry)).trans (settle_aside _)
    refine ⟨_, stepExpiry_eq state, shared, aside.refTime, clock, scanner, aside.song, aside.stations,
      ?_, order, v, perm, ?_, ?_⟩
    · exact (congrArg CueEngine.memory (settle_cue _)).trans (expireStep_memory c r (s.advanceTo r.expiry))
    · exact drawn
    · exact congrArg State.settle taken
  · have expired := expire_goesOn (now := now) (r := r) more
    have channel := passed_channel (c := c) (r := r) (e := e)
    refine ⟨congrArg Expiry.notices expired, congrArg Expiry.triggers expired, fun mode => ?_, fun mode none => ?_,
      fun w rest mode next => ?_⟩ <;> refine (congrArg Expiry.cue expired).trans ?_
    · exact goOn_run (by rw [channel]; exact mode)
    · exact goOn_waits (by rw [channel]; exact mode) (by rw [channel]; exact none)
    · exact goOn_next (by rw [channel]; exact mode) (by rw [channel]; exact next)
  · have expired := expire_endsList (now := now) (r := r) last
    have channel := passed_channel (c := c) (r := r) (e := e)
    refine ⟨congrArg Expiry.notices expired, congrArg Expiry.triggers expired, fun stops => ?_, fun loops mode => ?_,
      fun loops mode none => ?_, fun w rest loops mode next => ?_⟩ <;> refine (congrArg Expiry.cue expired).trans ?_
    · exact listEnd_stop (by rw [channel]; exact stops)
    all_goals refine (listEnd_loop (by rw [channel]; exact loops)).trans ?_
    · exact goOn_run (by rw [CueEngine.mapChannel_same, channel]; exact mode)
    · refine (goOn_waits ?_ ?_).trans (CueEngine.mapChannel_mapChannel c _ _ _) <;>
        rw [CueEngine.mapChannel_same, channel]
      · exact mode
      · exact none
    · refine (goOn_next (w := w) (rest := rest) ?_ ?_).trans
        (congrArg (CueEngine.startStep now c w) (CueEngine.mapChannel_mapChannel c _ _ _)) <;>
        rw [CueEngine.mapChannel_same, channel]
      · exact mode
      · exact next

end Sys2Proof.Machine
end

section
/-! SUPPORT. The cue requests (R152, R155, R158, R167, R168): their checks, what each writes to cue memory, to the lines and to
a channel, and CUE_FIRE with the trigger it raises. -/

namespace Sys2Proof.Machine

/-- R187: a request whose count is out of range is answered at once (log 1). -/
theorem submit_badLength {i : Instr} {take : State → State × Reply} {s : State} (unfit : i.wf = false) (h : s.ready) :
    s.submit i take = s.answered i .badLength [] := by
  have now : submitNow i take s = (s, replyFor i .badLength []) := by
    simp only [submitNow, unfit, Bool.false_eq_true, if_false]
  rw [State.submit, if_pos h.1]
  exact answer_eq now h.2 rfl rfl

/-- R188: no cue channel has a number above 7. -/
theorem channelOf_none {b : Byte} (beyond : 7 < b.toNat) : channelOf b = none := finOf_none beyond

/-! ### CUE_STEPS_PUT (R155) -/

/-- R155: a step record that passes its checks. -/
def StepGood (r : StepRec) : Prop := r.mode.toNat ≤ 2 ∧ r.line.toNat ≤ 47 ∧ 1 ≤ r.duration.toNat

/-- R154: the step that a record carries. -/
structure Carries (r : StepRec) (step : CueStep) : Prop where
  line : step.line.val = r.line.toNat
  level : step.level = r.level
  duration : step.duration = r.duration.toNat
  fixed : step.mode = .fixed ↔ r.mode = 0#8
  triggerLane : step.mode = .triggerLane ↔ r.mode = 1#8

theorem targetModeOf_some {b : Byte} (low : b.toNat ≤ 2) :
    ∃ mode, targetModeOf b = some mode ∧ (mode = .fixed ↔ b = 0#8) ∧ (mode = .triggerLane ↔ b = 1#8) := by
  have : b = 0#8 ∨ b = 1#8 ∨ b = 2#8 := by bv_omega
  rcases this with rfl | rfl | rfl <;> exact ⟨_, rfl, by decide⟩

theorem targetModeOf_none {b : Byte} (beyond : 2 < b.toNat) : targetModeOf b = none := by
  grind [targetModeOf]

theorem cueStepOf_good {r : StepRec} (good : StepGood r) : ∃ step, cueStepOf r = some step ∧ Carries r step := by
  obtain ⟨lowMode, lowLine, lasts⟩ := good
  obtain ⟨mode, hasMode, fixed, triggerLane⟩ := targetModeOf_some lowMode
  have hasLine : lineOf r.line = some ⟨r.line.toNat, Nat.lt_succ_of_le lowLine⟩ := finOf_some rfl
  refine ⟨⟨mode, ⟨r.line.toNat, Nat.lt_succ_of_le lowLine⟩, r.level, r.duration.toNat⟩, ?_, rfl, rfl, rfl, fixed,
    triggerLane⟩
  simp only [cueStepOf, hasMode, hasLine, if_pos lasts]

theorem cueStepOf_bad {r : StepRec} (bad : ¬ StepGood r) : cueStepOf r = none := by
  unfold cueStepOf
  split
  · rename_i mode line hasMode hasLine
    refine if_neg fun lasts => bad ⟨?_, ?_, lasts⟩ <;> by_contra beyond
    · exact absurd ((targetModeOf_none (Nat.lt_of_not_le beyond)).symm.trans hasMode) nofun
    · exact absurd ((finOf_none (Nat.lt_of_not_le beyond)).symm.trans hasLine) nofun
  · rfl

/-- R155: the first record that fails gives its index. -/
theorem cueStepsOf_bad {before after : List StepRec} {r : StepRec} (passed : ∀ x ∈ before, StepGood x)
    (bad : ¬ StepGood r) (i : Nat) : cueStepsOf (before ++ r :: after) i = .error (i + before.length) := by
  induction before generalizing i with
  | nil => simp only [List.nil_append, cueStepsOf, cueStepOf_bad bad, List.length_nil, Nat.add_zero]
  | cons x rest ih =>
    obtain ⟨step, read, _⟩ := cueStepOf_good (passed x (.head _))
    have later := ih (fun y mem => passed y (.tail _ mem)) (i + 1)
    simp only [List.cons_append, cueStepsOf, read, later, List.length_cons, Nat.add_assoc, Nat.add_comm 1]

/-- R155: records that all pass are all read. -/
theorem cueStepsOf_good {steps : List StepRec} (good : ∀ x ∈ steps, StepGood x) (i : Nat) :
    ∃ written, cueStepsOf steps i = .ok written ∧ List.Forall₂ Carries steps written := by
  induction steps generalizing i with
  | nil => exact ⟨[], rfl, .nil⟩
  | cons r rest ih =>
    obtain ⟨step, read, carries⟩ := cueStepOf_good (good r (.head _))
    obtain ⟨written, later, all⟩ := ih (fun x mem => good x (.tail _ mem)) (i + 1)
    exact ⟨step :: written, by simp only [cueStepsOf, read, later], .cons carries all⟩

theorem carries_of_getElem {steps : List StepRec} {written : List CueStep} (carries : List.Forall₂ Carries steps written)
    {j : Nat} {r : StepRec} (record : steps[j]? = some r) : ∃ step, written[j]? = some step ∧ Carries r step := by
  obtain ⟨lt, rfl⟩ := List.getElem?_eq_some_iff.mp record
  have lt' : j < written.length := carries.length_eq ▸ lt
  exact ⟨written[j], List.getElem?_eq_getElem lt', carries.get lt lt'⟩

/-- R155: a slot that no record names is left as it is. -/
theorem writeSteps_other {slot : SlotId} (start : Nat) (written : List CueStep) (m : Vector CueStep 256)
    (other : ∀ j, j < written.length → slot.val ≠ (start + j) % 256) : (writeSteps start written m)[slot] = m[slot] := by
  induction written generalizing start m with
  | nil => rfl
  | cons step rest ih =>
    have later : ∀ j, j < rest.length → slot.val ≠ (start + 1 + j) % 256 := fun j lt => by
      rw [Nat.add_assoc, Nat.add_comm 1]
      exact other (j + 1) (Nat.succ_lt_succ lt)
    rw [writeSteps, ih _ _ later]
    exact Vector.getElem_set_ne _ _ (other 0 (Nat.succ_pos _)).symm

/-- R155: record j is written to slot (start + j) modulo 256; up to 256 records name different slots. -/
theorem writeSteps_named {slot : SlotId} (start : Nat) {written : List CueStep} (m : Vector CueStep 256)
    (fit : written.length ≤ 256) {j : Nat} {step : CueStep} (record : written[j]? = some step)
    (named : slot.val = (start + j) % 256) : (writeSteps start written m)[slot] = step := by
  induction written generalizing start m j with
  | nil => cases record
  | cons first rest ih =>
    rw [List.length_cons] at fit
    cases j with
    | zero =>
      have only : ∀ j, j < rest.length → slot.val ≠ (start + 1 + j) % 256 := fun j lt => by omega
      rw [writeSteps, writeSteps_other _ _ _ only]
      cases record
      exact (Vector.getElem_set _ slot.isLt).trans (if_pos named.symm)
    | succ j =>
      rw [writeSteps]
      exact ih _ _ (by omega) record (by rw [named]; congr 1; omega)

theorem takeCueStepsPut_bad {start : Byte} {before after : List StepRec} {r : StepRec} {s : State}
    (passed : ∀ x ∈ before, StepGood x) (bad : ¬ StepGood r) :
    takeCueStepsPut start (before ++ r :: after) s =
      (s, replyFor (.cueStepsPut start (before ++ r :: after)) .badValue [BitVec.ofNat 8 before.length]) := by
  simp only [takeCueStepsPut, cueStepsOf_bad passed bad, Nat.zero_add]
  rfl

theorem takeCueStepsPut_good {start : Byte} {steps : List StepRec} {written : List CueStep} {s : State}
    (read : cueStepsOf steps 0 = .ok written) :
    takeCueStepsPut start steps s =
      (s.mapCue fun e => { e with memory := writeSteps start.toNat written e.memory },
        replyFor (.cueStepsPut start steps) .ok [BitVec.ofNat 8 written.length]) := by
  simp only [takeCueStepsPut, read]
  rfl

/-- Settles O51: `cueStepsOf_bad` for the refused record, `cueStepsOf_good` with `writeSteps_named` and `writeSteps_other` for
what is written. -/
theorem cueStepsPutWritesAllOrNone : Obligations.CueStepsPutWritesAllOrNone := by
  unfold Obligations.CueStepsPutWritesAllOrNone
  refine fun start steps s ready => ⟨fun unfit => ?_, fun before r after fit parts passed bad => ?_,
    fun some fit good => ?_⟩
  · have unfit : (Instr.cueStepsPut start steps).wf = false := decide_eq_false (by omega)
    exact congrArg _ (submit_badLength unfit ready)
  · subst parts
    have wf : (Instr.cueStepsPut start (before ++ r :: after)).wf = true :=
      decide_eq_true ⟨by rw [List.length_append, List.length_cons]; omega, fit⟩
    exact congrArg _ (submit_refused wf ready (takeCueStepsPut_bad passed bad))
  · obtain ⟨written, read, carries⟩ := cueStepsOf_good good 0
    have taken := takeCueStepsPut_good (start := start) (s := s) read
    rw [← carries.length_eq] at taken
    have wf : (Instr.cueStepsPut start steps).wf = true := decide_eq_true ⟨some, fit⟩
    refine ⟨writeSteps start.toNat written s.cue.memory, congrArg _ (submit_cue wf ready taken),
      fun j r record slot named => ?_, fun slot other => writeSteps_other _ _ _ (carries.length_eq ▸ other)⟩
    obtain ⟨step, found, line, level, duration, fixed, triggerLane⟩ := carries_of_getElem carries record
    rw [writeSteps_named start.toNat s.cue.memory (carries.length_eq ▸ fit.trans (by decide)) found named]
    exact ⟨line, level, duration, fixed, triggerLane⟩

/-! ### CUE_CHANNEL_SET and CUE_STOP (R153, R158, R168) -/

section
variable {c : ChannelId} {b : Byte} {r : ChannelRec} {s : State}

theorem takeCueChannelSet_beyond (beyond : 7 < r.channel.toNat) :
    takeCueChannelSet r s = (s, replyFor (.cueChannelSet r) .badValue []) := by
  simp only [takeCueChannelSet, channelOf_none beyond]

theorem takeCueChannelSet_bad (bad : cueConfigOf r = none) :
    takeCueChannelSet r s = (s, replyFor (.cueChannelSet r) .badValue []) := by
  simp only [takeCueChannelSet, bad]
  cases channelOf r.channel <;> rfl

theorem takeCueChannelSet_taken {cfg : CueConfig} (named : r.channel.toNat = c.val) (passed : cueConfigOf r = some cfg) :
    takeCueChannelSet r s =
      (s.mapCue fun e => (e.releaseRunning c).mapChannel c fun ch =>
          { ch with config := cfg, state := .armed, pointer := 0, waiting := [], overrun := false, lastLine := none },
        replyFor (.cueChannelSet r) .ok []) := by
  simp only [takeCueChannelSet, channelOf_some named, passed]

theorem takeCueStop_beyond (beyond : 7 < b.toNat) : takeCueStop b s = (s, replyFor (.cueStop b) .badValue []) := by
  simp only [takeCueStop, channelOf_none beyond]

theorem takeCueStop_named (named : b.toNat = c.val) :
    takeCueStop b s =
      (s.mapCue fun e => (e.releaseRunning c).mapChannel c CueChannel.stop, replyFor (.cueStop b) .ok []) := by
  simp only [takeCueStop, channelOf_some named]

end

@[simp] theorem releaseRunning_channels (c : ChannelId) (e : CueEngine) : (e.releaseRunning c).channels = e.channels := by
  unfold CueEngine.releaseRunning
  split
  · exact CueEngine.releaseStep_channels _ _ _
  · rfl

theorem stop_off {ch : CueChannel} (off : ch.state = .off) : ch.stop = ch := by
  simp only [CueChannel.stop, off]

theorem stop_on {ch : CueChannel} (on : ch.state ≠ .off) :
    ch.stop = { ch with state := .armed, pointer := 0, waiting := [] } := by
  unfold CueChannel.stop
  split
  · exact absurd ‹_› on
  · rfl
  · rfl
  · rfl

/-- R168: CUE_STOP of an OFF channel changes nothing. -/
theorem stopped_off {c : ChannelId} {e : CueEngine} (off : (e.channels[c]).state = .off) :
    (e.releaseRunning c).mapChannel c CueChannel.stop = e := by
  have idle : e.releaseRunning c = e := by simp only [CueEngine.releaseRunning, CueChannel.running, off]
  rw [idle, CueEngine.mapChannel, stop_off off]
  simp

/-- An update of the channel whose running step has been released. -/
theorem releaseRunning_mapChannel {c : ChannelId} {f : CueChannel → CueChannel} {ch : CueChannel} {e : CueEngine}
    (changed : f e.channels[c] = ch) :
    (e.releaseRunning c).mapChannel c f = { e.releaseRunning c with channels := e.channels.set c ch } := by
  rw [CueEngine.mapChannel, releaseRunning_channels, changed]

/-- Two updates that do the same to the cue engine as it is. -/
theorem State.mapCue_congr {f g : CueEngine → CueEngine} {s : State} (same : f s.cue = g s.cue) :
    s.mapCue f = s.mapCue g := by
  rw [State.mapCue, same, ← State.mapCue]

/-- Settles O52: the two requests taken, with `releaseRunning_mapChannel` for the channel, and `stopped_off` for an OFF
channel. -/
theorem cueChannelSetAndStop : Obligations.CueChannelSetAndStop := by
  unfold Obligations.CueChannelSetAndStop
  refine fun c b r s ready named same => ⟨fun bad => congrArg _ (submit_refused rfl ready (takeCueChannelSet_bad bad)),
    fun cfg passed => ?_, fun off => ?_, fun on => ?_, fun x beyond =>
    ⟨congrArg _ (submit_refused rfl ready (takeCueStop_beyond beyond)),
      congrArg _ (submit_refused rfl ready (takeCueChannelSet_beyond beyond))⟩⟩
  · have taken := takeCueChannelSet_taken (s := s) (same ▸ named) passed
    exact congrArg _ (submit_cue rfl ready
      (taken.trans (congrArg (·, _) (State.mapCue_congr (releaseRunning_mapChannel rfl)))))
  · have taken := takeCueStop_named (s := s) named
    rw [State.mapCue, stopped_off off] at taken
    exact congrArg _ (submit_refused rfl ready taken)
  · have taken := takeCueStop_named (s := s) named
    exact congrArg _ (submit_cue rfl ready
      (taken.trans (congrArg (·, _) (State.mapCue_congr (releaseRunning_mapChannel (stop_on on))))))

/-! ### LINE_BASE_SET (R152) -/

/-- R152: only lines are changed. -/
theorem setBases_eq (n : Nat) (levels : List Byte) (e : CueEngine) :
    e.setBases n levels = { e with lines := (e.setBases n levels).lines } := by
  induction levels generalizing n e with
  | nil => rfl
  | cons level rest ih =>
    rw [CueEngine.setBases, ih]
    split <;> rfl

/-- R152: a line outside the range is left as it is. -/
theorem setBases_other {m : LineId} (n : Nat) (levels : List Byte) (e : CueEngine)
    (other : m.val < n ∨ n + levels.length ≤ m.val) : (e.setBases n levels).lines[m] = e.lines[m] := by
  induction levels generalizing n e with
  | nil => rfl
  | cons level rest ih =>
    rw [List.length_cons] at other
    rw [CueEngine.setBases, ih _ _ (by omega)]
    split
    · exact CueEngine.mapLine_ne (by rw [ne_eq, Fin.ext_iff]; dsimp only; omega) _ _
    · rfl

/-- R152: each line of the range takes its level. -/
theorem setBases_named {m : LineId} (n : Nat) {levels : List Byte} (e : CueEngine) {j : Nat} {level : Byte}
    (carried : levels[j]? = some level) (named : m.val = n + j) :
    (e.setBases n levels).lines[m] = (e.lines[m]).setBase level := by
  induction levels generalizing n e j with
  | nil => cases carried
  | cons first rest ih =>
    cases j with
    | zero =>
      cases carried
      obtain rfl : m.val = n := named
      rw [CueEngine.setBases, setBases_other _ _ _ (.inl (Nat.lt_succ_self _)), dif_pos m.isLt]
      exact CueEngine.mapLine_same _ _ _
    | succ j =>
      rw [CueEngine.setBases, ih _ _ carried (by omega)]
      split
      · rw [CueEngine.mapLine_ne (by rw [ne_eq, Fin.ext_iff]; dsimp only; omega)]
      · rfl

theorem setBase_eq (level : Byte) (l : Line) :
    l.setBase level = { l with base := level, current := if l.owner = none then level else l.current } := by
  simp only [Line.setBase, Option.isNone_iff_eq_none]

theorem takeLineBaseSet_bad {first : Byte} {levels : List Byte} {s : State}
    (bad : 47 < first.toNat ∨ 48 < first.toNat + levels.length) :
    takeLineBaseSet first levels s = (s, replyFor (.lineBaseSet first levels) .badValue []) := if_neg (by omega)

theorem takeLineBaseSet_taken {first : Byte} {levels : List Byte} {s : State} (low : first.toNat ≤ 47)
    (fit : first.toNat + levels.length ≤ 48) :
    takeLineBaseSet first levels s =
      (s.mapCue fun e => { e with lines := (s.cue.setBases first.toNat levels).lines },
        replyFor (.lineBaseSet first levels) .ok []) := by
  rw [State.mapCue, ← setBases_eq]
  exact if_pos ⟨low, fit⟩

/-! ### CUE_FIRE (R167) -/

section
variable {c : ChannelId} {b : Byte} {s : State}

theorem filter_allCueChannels (c : ChannelId) : (allCueChannels.filter fun d => decide (d = c)) = [c] := by
  revert c
  decide

/-- R159: the trigger of a CUE_FIRE is handed to the channel it names alone. -/
theorem takers_linkFire (source : (s.cue.channels[c]).config.source = .linkFire) : s.cue.takers (.linkFire c) = [c] := by
  have named : ∀ d : ChannelId, (s.cue.channels[d]).config.takes d (.linkFire c) = decide (d = c) := fun d => by
    by_cases same : d = c
    · subst same
      rw [decide_eq_true rfl]
      exact takes_linkFire.mpr ⟨source, rfl⟩
    · rw [decide_eq_false same, ← Bool.not_eq_true, takes_linkFire]
      exact fun fired => same fired.2.symm
  simp only [CueEngine.takers, named]
  exact filter_allCueChannels c

/-- R167: the channel takes the trigger, and its notices are offered. -/
theorem raiseNow_linkFire (source : (s.cue.channels[c]).config.source = .linkFire) (none : s.outbox = none) :
    s.raiseNow (.linkFire c) =
      let x := s.cue.takeTrigger s.refTime c { station := Option.none, lane := Option.none }
      x.2.foldl (fun v n => v.offer (.notice s.now n)) { s with cue := x.1 } := by
  have raised : s.raise (.linkFire c) =
      ({ s with cue := (s.cue.takeTrigger s.refTime c { station := Option.none, lane := Option.none }).1 },
        (s.cue.takeTrigger s.refTime c { station := Option.none, lane := Option.none }).2.map (Report.notice s.now)) := by
    rw [raise_eq_handTrigger none, State.handTrigger, takers_linkFire source]
    simp only [List.length_singleton, shuffle, CueEngine.deliver, List.append_nil]
    rfl
  rw [State.raiseNow, raised]
  exact List.foldl_map

theorem takeCueFire_beyond (beyond : 7 < b.toNat) : takeCueFire b s = (s, replyFor (.cueFire b) .badValue []) := by
  simp only [takeCueFire, channelOf_none beyond]

theorem takeCueFire_other (named : b.toNat = c.val) (source : (s.cue.channels[c]).config.source ≠ .linkFire) :
    takeCueFire b s = (s, replyFor (.cueFire b) .state []) := by
  simp only [takeCueFire, channelOf_some named, source, if_false]

theorem takeCueFire_fired (named : b.toNat = c.val) (source : (s.cue.channels[c]).config.source = .linkFire) :
    takeCueFire b s =
      (s.raiseNow (.linkFire c),
        replyFor (.cueFire b) .ok [BitVec.ofNat 8 (((s.raiseNow (.linkFire c)).cue.channels[c]).state.code)]) := by
  simp only [takeCueFire, channelOf_some named, source, if_true]
  rfl

/-- R167: a trigger that raises no notice. -/
theorem takeCueFire_quiet {e : CueEngine} (named : b.toNat = c.val)
    (source : (s.cue.channels[c]).config.source = .linkFire) (none : s.outbox = none)
    (taken : s.cue.takeTrigger s.refTime c { station := Option.none, lane := Option.none } = (e, [])) :
    takeCueFire b s =
      (s.mapCue fun _ => e, replyFor (.cueFire b) .ok [BitVec.ofNat 8 (e.channels[c]).state.code]) := by
  have raised : s.raiseNow (.linkFire c) = s.mapCue fun _ => e := by
    rw [raiseNow_linkFire source none, taken]
    rfl
  rw [takeCueFire_fired named source, raised]
  rfl

/-- R167: CUE_FIRE answered, its trigger taken by the channel; the notices reach the link port alone. -/
theorem cueFire_spec (ready : s.ready) (named : b.toNat = c.val)
    (source : (s.cue.channels[c]).config.source = .linkFire) :
    ∃ t, exec (.cueFire b) s = .next t ∧
      t.cue = (s.cue.takeTrigger s.refTime c { station := none, lane := none }).1 ∧
      t.link.slot = some (replyFor (.cueFire b) .ok [BitVec.ofNat 8 (t.cue.channels[c]).state.code]) ∧
      InnerMoves s t ∧ Aside s t := by
  obtain ⟨due, outbox⟩ := (quiescent_iff s).mp ready.2
  have quiet : (s.raiseNow (.linkFire c)).quiescent :=
    (quiescent_iff _).mpr ⟨(raiseNow_due _ s).trans due, (raiseNow_moves _ s).moves.outbox_none outbox⟩
  obtain ⟨reported, slot⟩ := answer_reported (takeCueFire b) s
  rw [takeCueFire_fired named source] at reported slot
  rw [flush_quiescent quiet] at reported
  have raised := (offerAll_reported (Report.notice s.now) (s.cue.takeTrigger s.refTime c ⟨none, none⟩).2
    { s with cue := (s.cue.takeTrigger s.refTime c ⟨none, none⟩).1 }).cue
  rw [← raiseNow_linkFire source outbox] at raised
  refine ⟨s.answer (takeCueFire b), congrArg Host.Outcome.next (submit_open rfl ready.1), reported.cue.trans raised, ?_,
    answer_innerMoves (takeCueFire_moves b s), (raiseNow_aside _ s).trans reported.aside⟩
  rw [slot, reported.cue]

end

/-- Settles O54: `setBases_named` and `setBases_other` for the lines, `takeCueFire_quiet` for a channel that raises no notice,
`cueFire_spec` for every channel of the source. -/
theorem lineBaseSetAndCueFire : Obligations.LineBaseSetAndCueFire := by
  unfold Obligations.LineBaseSetAndCueFire
  refine ⟨fun first levels s ready some within => ?_, fun b s ready =>
    ⟨fun beyond => congrArg _ (submit_refused rfl ready (takeCueFire_beyond beyond)), fun c named =>
      ⟨fun other => congrArg _ (submit_refused rfl ready (takeCueFire_other named other)), fun source off => ?_,
        fun source done => ?_, fun source armed => ?_, fun source => ?_⟩⟩⟩
  · have wf : (Instr.lineBaseSet first levels).wf = true := decide_eq_true ⟨some, within⟩
    refine ⟨fun bad => congrArg _ (submit_refused wf ready (takeLineBaseSet_bad bad)), fun low fit =>
      ⟨_, congrArg _ (submit_cue wf ready (takeLineBaseSet_taken low fit)), fun j b carried n named => ?_,
        fun n other => setBases_other _ _ _ other⟩⟩
    rw [setBases_named _ _ carried named, setBase_eq]
  · have taken := takeCueFire_quiet named source ready.2.2.2 (takeTrigger_ignored (.inl off))
    rw [off] at taken
    exact congrArg _ (submit_refused rfl ready taken)
  · have taken := takeCueFire_quiet named source ready.2.2.2 (takeTrigger_ignored (.inr done))
    rw [done] at taken
    exact congrArg _ (submit_refused rfl ready taken)
  · have taken := takeCueFire_quiet named source ready.2.2.2 (takeTrigger_armed armed)
    rw [startStep_channel_same] at taken
    exact congrArg _ (submit_cue rfl ready taken)
  · obtain ⟨t, next, cue, slot, moves, aside⟩ := cueFire_spec ready named source
    obtain ⟨shared, time, clock, scanner⟩ := moves.framed
    exact ⟨t, next, cue, slot, shared, time, clock, scanner, aside.song, aside.stations⟩

end Sys2Proof.Machine
end

section
/-! SUPPORT. The framer (R171, R172, R174 to R176): what it does with a byte in each of its states, the bytes of a whole
frame, and the gap timer, link breaks and RXD returning high. -/

namespace Sys2Proof.Machine

/-! ### The receiver (R171, R176) -/

/-- R171: RXD_BYTE does to the link port what the receiver does, and nothing else. -/
theorem rxdByte_link {b : Byte} {error : Bool} {s : State} {f : LinkPort → LinkPort}
    (taken : s.link.receiveByte s.refTime b error = f s.link) : exec (.rxdByte b error) s = .next (s.mapLink f) := by
  simp only [exec, execRxdByte, State.mapLink, taken]

theorem rxdByte_kept {b : Byte} {error : Bool} {s : State} (kept : s.link.receiveByte s.refTime b error = s.link) :
    exec (.rxdByte b error) s = .next s :=
  rxdByte_link (f := id) kept

section
variable {l : LinkPort} {b : Byte} {now : Nat}

theorem receiveByte_high (high : l.rxd = .high) : l.receiveByte now b false = l.receive now b := by
  simp only [LinkPort.receiveByte, high, Bool.false_eq_true, if_false]

theorem receiveByte_error (high : l.rxd = .high) : l.receiveByte now b true = l.framingError := by
  simp only [LinkPort.receiveByte, high, if_true]

/-- R171, log 16: the receiver takes no byte while RXD is low. -/
theorem receiveByte_low {error : Bool} (low : l.rxd ≠ .high) : l.receiveByte now b error = l := by
  unfold LinkPort.receiveByte
  split
  · exact absurd ‹_› low
  · rfl
  · rfl

theorem receive_discard (turn : l.framer.turn b = .discard) : l.receive now b = l := by
  simp only [LinkPort.receive, turn]

theorem receive_refuse (turn : l.framer.turn b = .refuseLength) :
    l.receive now b = { l with framer := .hunt, current := [] } := by
  simp only [LinkPort.receive, turn]

theorem receive_store (turn : l.framer.turn b = .store) (room : l.occupancy < 512) :
    l.receive now b = l.takeStored now b := by
  simp only [LinkPort.receive, turn, inboundSize, room, if_true]

/-- R176: a byte that would be stored in a full buffer is dropped. -/
theorem receive_full (turn : l.framer.turn b = .store) (full : 512 ≤ l.occupancy) : l.receive now b = l := by
  simp only [LinkPort.receive, turn, inboundSize, Nat.not_lt.mpr full, if_false]

/-! ### The framer's turn at a byte (R172) -/

theorem turn_sync : Framer.hunt.turn 0x5A#8 = .store := rfl

theorem turn_noise (other : b ≠ 0x5A#8) : Framer.hunt.turn b = .discard := if_neg other

theorem turn_length (low : b.toNat ≤ 240) : Framer.length.turn b = .store := if_pos low

theorem turn_beyond (high : 241 ≤ b.toNat) : Framer.length.turn b = .refuseLength :=
  if_neg (Nat.not_le.mpr (Nat.lt_of_succ_le high))

theorem turn_timed {f : Framer} (timed : f.timed = true) : f.turn b = .store := by
  cases f with
  | kind _ | body _ | check _ => rfl
  | hunt | length => cases timed

/-- R174: the framer is past LENGTH exactly where it is in neither of the first two states. -/
theorem timed_iff {f : Framer} : f.timed = true ↔ f ≠ .hunt ∧ f ≠ .length := by
  cases f <;> simp [Framer.timed]

/-! ### A byte that is stored (R172, R174) -/

/-- R172: the framer where some payload bytes are still to come. -/
def Framer.expecting (left : Nat) : Framer := if left = 0 then .check 2 else .body left

theorem takeStored_sync (hunt : l.framer = .hunt) :
    l.takeStored now b = { l with framer := .length, current := [b] } := by
  simp only [LinkPort.takeStored, hunt]

theorem takeStored_length (length : l.framer = .length) : l.takeStored now b = l.store now b (.kind b.toNat) := by
  simp only [LinkPort.takeStored, length]

theorem takeStored_kind {len : Nat} (kind : l.framer = .kind len) :
    l.takeStored now b = l.store now b (.expecting len) := by
  cases len <;> simp only [LinkPort.takeStored, kind] <;> rfl

theorem takeStored_body {left : Nat} (body : l.framer = .body left) :
    l.takeStored now b = l.store now b (.expecting (left - 1)) := by
  match left with
  | 0 | 1 | left + 2 =>
    simp only [LinkPort.takeStored, body]
    rfl

theorem takeStored_check {left : Nat} (check : l.framer = .check left) (more : 2 ≤ left) :
    l.takeStored now b = l.store now b (.check (left - 1)) := by
  match left with
  | left + 2 =>
    simp only [LinkPort.takeStored, check]
    rfl

/-- R172: the last check byte ends the frame complete. -/
theorem takeStored_last {left : Nat} (check : l.framer = .check left) (last : left ≤ 1) :
    l.takeStored now b =
      { l with framer := .hunt, current := [], gap := .stopped,
               ended := l.ended ++ [{ bytes := l.current ++ [b], truncated := false }] } := by
  match left with
  | 0 | 1 =>
    simp only [LinkPort.takeStored, check]
    rfl

theorem expecting_pred (left : Nat) :
    Framer.expecting (left - 1) = if left ≤ 1 then .check 2 else .body (left - 1) := by
  unfold Framer.expecting
  exact if_congr (by omega) rfl rfl

theorem framingError_untimed (untimed : l.framer = .hunt ∨ l.framer = .length) :
    l.framingError = { l with rxd := .low } := by
  rcases untimed with f | f <;> simp [LinkPort.framingError, f, Framer.timed]

theorem framingError_timed (notHunt : l.framer ≠ .hunt) (notLength : l.framer ≠ .length) :
    l.framingError = { l with rxd := .low, gap := .suspended } := by
  simp [LinkPort.framingError, timed_iff.mpr ⟨notHunt, notLength⟩]

end

/-- R172: what a byte that the framer stores, with room, does to the part. -/
theorem rxdByte_stored {b : Byte} {s : State} {f : LinkPort → LinkPort} (high : s.link.rxd = .high)
    (room : s.link.occupancy < 512) (turn : s.link.framer.turn b = .store)
    (stored : s.link.takeStored s.refTime b = f s.link) : exec (.rxdByte b false) s = .next (s.mapLink f) :=
  rxdByte_link ((receiveByte_high high).trans ((receive_store turn room).trans stored))

/-- R172: a length above 240 sends the framer back to HUNT, with room or without. -/
theorem rxdByte_refused {b : Byte} {s : State} (high : s.link.rxd = .high) (length : s.link.framer = .length)
    (beyond : 241 ≤ b.toNat) :
    exec (.rxdByte b false) s = .next (s.mapLink fun l => { l with framer := .hunt, current := [] }) :=
  rxdByte_link ((receiveByte_high high).trans (receive_refuse (length ▸ turn_beyond beyond)))

/-- R172: in HUNT a byte other than SYNC is discarded, with room or without. -/
theorem rxdByte_noise {b : Byte} {s : State} (high : s.link.rxd = .high) (hunt : s.link.framer = .hunt)
    (other : b ≠ 0x5A#8) : exec (.rxdByte b false) s = .next s :=
  rxdByte_kept ((receiveByte_high high).trans (receive_discard (hunt ▸ turn_noise other)))

/-- R172: which bytes the framer would store. -/
theorem turn_store {f : Framer} {b : Byte} (sync : f ≠ .hunt ∨ b = 0x5A#8) (low : f ≠ .length ∨ b.toNat ≤ 240) :
    f.turn b = .store := by
  cases f with
  | hunt => exact (sync.resolve_left (· rfl)) ▸ turn_sync
  | length => exact turn_length (low.resolve_left (· rfl))
  | kind _ | body _ | check _ => rfl

/-- Settles O6: each row of the framer's table by the state that it is in, a full buffer, and the framing error. -/
theorem framerTakesAByte : Obligations.FramerTakesAByte := by
  unfold Obligations.FramerTakesAByte
  refine ⟨fun b s high room => ⟨rxdByte_noise high, fun hunt sync => ?_, rxdByte_refused high, fun length low => ?_,
    fun len kind => ?_, fun left body => ?_, fun left check more => ?_, fun left check last => ?_⟩, fun b s =>
    ⟨fun high full sync low => ?_, fun high _ => rxdByte_noise high, fun high _ => rxdByte_refused high,
      fun high untimed => ?_, fun high notHunt notLength => ?_, fun error low => rxdByte_kept (receiveByte_low low)⟩⟩
  · exact rxdByte_stored high room (hunt ▸ sync ▸ turn_sync) (takeStored_sync hunt)
  · exact rxdByte_stored high room (length ▸ turn_length low) (takeStored_length length)
  · exact rxdByte_stored high room (kind ▸ rfl) (takeStored_kind kind)
  · exact rxdByte_stored high room (body ▸ rfl) (expecting_pred left ▸ takeStored_body body)
  · exact rxdByte_stored high room (check ▸ rfl) (takeStored_check check more)
  · exact rxdByte_stored high room (check ▸ rfl) (takeStored_last check last)
  · exact rxdByte_kept ((receiveByte_high high).trans (receive_full (turn_store sync low) full))
  · exact rxdByte_link ((receiveByte_error high).trans (framingError_untimed untimed))
  · exact rxdByte_link ((receiveByte_error high).trans (framingError_timed notHunt notLength))

/-! ### A whole frame (R172) -/

theorem receiveBytes_cons (now : Nat) (b : Byte) (bytes : List Byte) (l : LinkPort) :
    l.receiveBytes now (b :: bytes) = (l.receiveByte now b false).receiveBytes now bytes := rfl

theorem receiveBytes_append (now : Nat) (as bs : List Byte) (l : LinkPort) :
    l.receiveBytes now (as ++ bs) = (l.receiveBytes now as).receiveBytes now bs := List.foldl_append

/-- RXD_BYTE commands one after another are the receiver's bytes one after another. -/
theorem steps_rxdBytes (bytes : List Byte) {rest : List Instr} {s : State}
    (queued : s.pending = (bytes.map fun b => .rxdByte b false) ++ rest) :
    steps bytes.length s = .next { s with pending := rest, link := s.link.receiveBytes s.refTime bytes } := by
  induction bytes generalizing s with
  | nil =>
    obtain rfl : s.pending = rest := queued
    rfl
  | cons b bytes ih =>
    have next : step s = exec (.rxdByte b false) { s with pending := (bytes.map fun b => .rxdByte b false) ++ rest } := by
      simp only [step, queued, List.map_cons, List.cons_append]
    rw [List.length_cons, steps, next]
    exact ih rfl

/-- R176: the bytes of the frames that have ended. -/
def LinkPort.endedBytes (l : LinkPort) : Nat := (l.ended.map fun f => f.bytes.length).sum

/-- R172, R174: the link port while a frame past LENGTH is in progress. -/
def LinkPort.inFrame (now : Nat) (stored : List Byte) (f : Framer) (l : LinkPort) : LinkPort :=
  { l with current := stored, framer := f, gap := .running now }

section
variable {l : LinkPort} {now : Nat} {stored : List Byte} {b : Byte}

theorem inFrame_occupancy (f : Framer) : (l.inFrame now stored f).occupancy = l.endedBytes + stored.length := rfl

theorem occupancy_empty (empty : l.current = []) : l.occupancy = l.endedBytes := by
  simp only [LinkPort.occupancy, LinkPort.endedBytes, empty, List.length_nil, Nat.add_zero]

/-- R172: a byte of a frame past LENGTH, with room for it. -/
theorem inFrame_receiveByte {f g : Framer} (high : l.rxd = .high) (timed : f.timed = true)
    (room : l.endedBytes + stored.length < 512)
    (taken : (l.inFrame now stored f).takeStored now b = (l.inFrame now stored f).store now b g) :
    (l.inFrame now stored f).receiveByte now b false = l.inFrame now (stored ++ [b]) g := by
  rw [← inFrame_occupancy (now := now) f] at room
  rw [receiveByte_high (by exact high), receive_store (turn_timed timed) room, taken]
  rfl

/-- R172: the payload bytes of a frame, with room for them. -/
theorem inFrame_receivePayload (payload : List Byte) (high : l.rxd = .high)
    (room : l.endedBytes + stored.length + payload.length ≤ 512) :
    (l.inFrame now stored (.expecting payload.length)).receiveBytes now payload =
      l.inFrame now (stored ++ payload) (.check 2) := by
  induction payload generalizing stored with
  | nil => rw [List.append_nil]; rfl
  | cons b payload ih =>
    rw [List.length_cons] at room
    have body : (l.inFrame now stored (.expecting (payload.length + 1))).framer = .body (payload.length + 1) := rfl
    rw [receiveBytes_cons, List.length_cons, inFrame_receiveByte high rfl (by omega) (takeStored_body body),
      Nat.add_sub_cancel, ih (by rw [List.length_append, List.length_singleton]; omega), List.append_assoc,
      List.singleton_append]

/-- R172: the two check bytes of a frame, with room for them, end it complete. -/
theorem inFrame_receiveCheck (check : Half) (high : l.rxd = .high)
    (room : l.endedBytes + stored.length + 2 ≤ 512) :
    (l.inFrame now stored (.check 2)).receiveBytes now (be16 check) =
      { l with framer := .hunt, current := [], gap := .stopped,
               ended := l.ended ++ [{ bytes := stored ++ be16 check, truncated := false }] } := by
  have room' : l.endedBytes + (stored ++ [check.extractLsb' 8 8]).length < 512 := by
    rw [List.length_append, List.length_singleton]
    omega
  rw [be16, receiveBytes_cons, inFrame_receiveByte high rfl (by omega) (takeStored_check rfl (Nat.le_refl 2)),
    receiveBytes_cons, receiveByte_high (by exact high), receive_store rfl (by exact room'),
    takeStored_last rfl (Nat.le_refl 1)]
  simp only [LinkPort.inFrame, LinkPort.receiveBytes, List.foldl_nil, List.append_assoc, List.singleton_append]

/-- R172: SYNC and LEN of a frame, with room for them. -/
theorem receiveBytes_syncLength (high : l.rxd = .high) (hunt : l.framer = .hunt) (empty : l.current = [])
    (low : b.toNat ≤ 240) (room : l.occupancy + 2 ≤ 512) :
    l.receiveBytes now [syncByte, b] = l.inFrame now [syncByte, b] (.kind b.toNat) := by
  have room' : LinkPort.occupancy { l with framer := .length, current := [syncByte] } < 512 := by
    simp only [LinkPort.occupancy, empty, List.length_nil] at room
    simp only [LinkPort.occupancy, List.length_singleton]
    omega
  rw [receiveBytes_cons, receiveByte_high high, receive_store (hunt ▸ turn_sync) (by omega), takeStored_sync hunt,
    receiveBytes_cons, receiveByte_high (by exact high), receive_store (turn_length low) room', takeStored_length rfl]
  rfl

/-- R172: the bytes of a whole frame, with room for them, are one frame that has ended complete. -/
theorem receiveBytes_frame (kind : Byte) {payload : List Byte} (fits : payload.length ≤ 240) (high : l.rxd = .high)
    (hunt : l.framer = .hunt) (empty : l.current = []) (room : l.occupancy + payload.length + 5 ≤ 512) :
    l.receiveBytes now (frameBytes kind payload) =
      { l with gap := .stopped, ended := l.ended ++ [{ bytes := frameBytes kind payload, truncated := false }] } := by
  have len : (BitVec.ofNat 8 payload.length).toNat = payload.length := by
    rw [BitVec.toNat_ofNat]
    omega
  have held := occupancy_empty empty
  have parts : frameBytes kind payload =
      [syncByte, BitVec.ofNat 8 payload.length] ++ (kind :: (payload ++ be16 (crc16
        (BitVec.ofNat 8 payload.length :: kind :: payload)))) := rfl
  rw [parts, receiveBytes_append, receiveBytes_syncLength high hunt empty (by omega) (by omega), len, receiveBytes_cons,
    inFrame_receiveByte high rfl (by simp only [List.length_cons, List.length_nil]; omega) (takeStored_kind rfl),
    receiveBytes_append, inFrame_receivePayload payload high
      (by simp only [List.length_append, List.length_cons, List.length_nil]; omega),
    inFrame_receiveCheck _ high
      (by simp only [List.length_append, List.length_cons, List.length_nil]; omega)]
  simp only [hunt, empty, List.cons_append, List.nil_append]

end

/-- Settles O4: the commands are the receiver's bytes, which are the parts of one frame. -/
theorem framerTakesAWholeFrame : Obligations.FramerTakesAWholeFrame := by
  unfold Obligations.FramerTakesAWholeFrame
  intro kind payload rest s fits queued high hunt empty room
  have length : (frameBytes kind payload).length = payload.length + 5 := by
    simp only [frameBytes, List.length_cons, List.length_append, length_be16]
  rw [← length, steps_rxdBytes _ queued, receiveBytes_frame kind fits high hunt empty room]

/-! ### The gap timer, link breaks and RXD returning high (R174, R175) -/

theorem takeBreak_taken {l : LinkPort} (fresh : l.rxd ≠ .broken) :
    l.takeBreak = { l with rxd := .broken, framer := .hunt, current := [], gap := .stopped, ended := [] } := by
  unfold LinkPort.takeBreak
  split
  · exact absurd ‹_› fresh
  · rfl
  · rfl

theorem takeBreak_again {l : LinkPort} (broken : l.rxd = .broken) : l.takeBreak = l := by
  simp only [LinkPort.takeBreak, broken]

theorem returnHigh_suspended {l : LinkPort} (suspended : l.gap = .suspended) (now : Nat) :
    l.returnHigh now = { l with rxd := .high, gap := .running now } := by
  simp only [LinkPort.returnHigh, suspended]

theorem returnHigh_other {l : LinkPort} (other : l.gap ≠ .suspended) (now : Nat) :
    l.returnHigh now = { l with rxd := .high } := by
  cases gap : l.gap with
  | suspended => exact absurd gap other
  | stopped | running since => simp only [LinkPort.returnHigh, gap]

/-- Settles O7: what each of the three commands does to the link port, by the gap timer and RXD. -/
theorem gapExpiryBreakAndReturnHigh : Obligations.GapExpiryBreakAndReturnHigh := by
  unfold Obligations.GapExpiryBreakAndReturnHigh
  refine fun s => ⟨fun since running => ?_, fun fresh => ?_, fun broken => ?_, fun suspended => ?_, fun other => ?_⟩
  · simp only [exec, execGapTimerExpiry, running]
    rfl
  · simp only [exec, execLinkBreak, State.mapLink, takeBreak_taken fresh]
  · simp only [exec, execLinkBreak, State.mapLink, takeBreak_again broken]
  · simp only [exec, execRxdReturnsHigh, State.mapLink, returnHigh_suspended suspended]
  · simp only [exec, execRxdReturnsHigh, State.mapLink, returnHigh_other other]

end Sys2Proof.Machine
end

section
/-! SUPPORT. The frames of requests (R177, R187, R189): a request is read back from its frame, which payload lengths the
request of each kind may have, and a frame that has ended, taken and answered. -/

namespace Sys2Proof

/-! ### A request is read back from its payload (11.2, 11.4) -/

theorem toNat_count {n : Nat} (low : n ≤ 48) : (BitVec.ofNat 8 n).toNat = n := by
  rw [BitVec.toNat_ofNat]
  omega

theorem readTempoPut_payload {segments : List SegmentRec} (wf : (Instr.tempoPut segments).wf = true) :
    readTempoPut (Instr.tempoPut segments).payload = some (.tempoPut segments) := by
  have count : 1 ≤ segments.length ∧ segments.length ≤ 16 := of_decide_eq_true wf
  simp only [Instr.payload, readTempoPut, toNat_count (Nat.le_trans count.2 (by decide)), count, and_self, if_true,
    readSegments_bytes, Option.map_some]

theorem readLadderSet_payload {rungs : List RungRec} (wf : (Instr.ladderSet rungs).wf = true) :
    readLadderSet (Instr.ladderSet rungs).payload = some (.ladderSet rungs) := by
  have count : rungs.length ≤ 47 := of_decide_eq_true wf
  simp only [Instr.payload, readLadderSet, toNat_count (Nat.le_trans count (by decide)), readRungs_bytes,
    Option.map_some]

theorem readNotesPut_payload {station : Byte} {baseId : Half} {records : List NoteRec}
    (wf : (Instr.notesPut station baseId records).wf = true) :
    readNotesPut (Instr.notesPut station baseId records).payload = some (.notesPut station baseId records) := by
  have count : 1 ≤ records.length ∧ records.length ≤ 23 := of_decide_eq_true wf
  simp only [Instr.payload, be16, List.cons_append, List.nil_append, readNotesPut,
    toNat_count (Nat.le_trans count.2 (by decide)), count, and_self, if_true, readNotes_bytes, Option.map_some, half_be16]

theorem readCueStepsPut_payload {startSlot : Byte} {steps : List StepRec}
    (wf : (Instr.cueStepsPut startSlot steps).wf = true) :
    readCueStepsPut (Instr.cueStepsPut startSlot steps).payload = some (.cueStepsPut startSlot steps) := by
  have count : 1 ≤ steps.length ∧ steps.length ≤ 40 := of_decide_eq_true wf
  simp only [Instr.payload, readCueStepsPut, toNat_count (Nat.le_trans count.2 (by decide)), count, and_self, if_true,
    readSteps_bytes, Option.map_some]

theorem readEight_bytes (p : PerResult Half) (rest : List Byte) :
    readEight (p.toList.flatMap be16 ++ rest) = some (p, rest) := by
  simp only [PerResult.toList, List.flatMap_cons, List.flatMap_nil, be16, List.cons_append, List.nil_append, readEight,
    half_be16]

theorem readScoringSet_payload (r : ScoringRec) : readScoringSet (Instr.scoringSet r).payload = some (.scoringSet r) := by
  simp only [Instr.payload, List.append_assoc, readScoringSet, readEight_bytes, be16, List.cons_append, List.nil_append,
    half_be16]

/-- R177: every well-formed request is read back from its kind code and its payload. -/
theorem decodeRequest_payload {i : Instr} {k : Byte} (wf : i.wf = true) (kind : i.kind = some k) :
    decodeRequest k i.payload = .request i := by
  cases i with
  | identify | systemReset | songGo | songStatus | calibrate _ | panelRead _ | chartClose _ | stationStatus _ | tallyRead _
  | stationClear _ | checkpointPush _ | checkpointPop _ | checkpointDrop _ | checkpointRead _ | cueFire _ | cueStop _
  | cueStatus _ | chartOpen _ _ =>
    obtain rfl := Option.some.inj kind
    rfl
  | noticeMaskSet mask =>
    obtain rfl := Option.some.inj kind
    exact congrArg (fun m => Decoded.request (.noticeMaskSet m)) (field24_be24 mask)
  | scanSet period =>
    obtain rfl := Option.some.inj kind
    exact congrArg (fun p => Decoded.request (.scanSet p)) (half_be16 period)
  | tempoClear origin =>
    obtain rfl := Option.some.inj kind
    exact congrArg (fun o => Decoded.request (.tempoClear o)) (word_be32 origin)
  | songArm mask startFrame =>
    obtain rfl := Option.some.inj kind
    exact congrArg (fun f => Decoded.request (.songArm mask f)) (word_be32 startFrame)
  | songAbort conditions n =>
    obtain rfl := Option.some.inj kind
    exact congrArg (fun n => Decoded.request (.songAbort conditions n)) (half_be16 n)
  | panelSet r =>
    obtain rfl := Option.some.inj kind
    have read : readPanelSet (Instr.panelSet r).payload = some (.panelSet r) := by
      simp only [Instr.payload, be16, List.cons_append, List.nil_append, readPanelSet, half_be16]
    exact congrArg Decoded.ofOption read
  | windowsSet r =>
    obtain rfl := Option.some.inj kind
    have read : readWindowsSet (Instr.windowsSet r).payload = some (.windowsSet r) := by
      simp only [Instr.payload, be16, be32, List.cons_append, List.nil_append, readWindowsSet, half_be16, word_be32]
    exact congrArg Decoded.ofOption read
  | stationSet r =>
    obtain rfl := Option.some.inj kind
    have read : readStationSet (Instr.stationSet r).payload = some (.stationSet r) := by
      simp only [Instr.payload, be16, be32, List.cons_append, List.nil_append, readStationSet, half_be16, word_be32]
    exact congrArg Decoded.ofOption read
  | cueChannelSet r =>
    obtain rfl := Option.some.inj kind
    have read : readCueChannelSet (Instr.cueChannelSet r).payload = some (.cueChannelSet r) := by
      simp only [Instr.payload, be16, List.cons_append, List.nil_append, readCueChannelSet, half_be16]
    exact congrArg Decoded.ofOption read
  | lineBaseSet first levels =>
    obtain rfl := Option.some.inj kind
    have count : 1 ≤ levels.length ∧ levels.length ≤ 48 := of_decide_eq_true wf
    exact congrArg Decoded.ofOption (if_pos count)
  | scoringSet r =>
    obtain rfl := Option.some.inj kind
    exact congrArg Decoded.ofOption (readScoringSet_payload r)
  | tempoPut segments =>
    obtain rfl := Option.some.inj kind
    exact congrArg Decoded.ofOption (readTempoPut_payload wf)
  | ladderSet rungs =>
    obtain rfl := Option.some.inj kind
    exact congrArg Decoded.ofOption (readLadderSet_payload wf)
  | notesPut station baseId records =>
    obtain rfl := Option.some.inj kind
    exact congrArg Decoded.ofOption (readNotesPut_payload wf)
  | cueStepsPut startSlot steps =>
    obtain rfl := Option.some.inj kind
    exact congrArg Decoded.ofOption (readCueStepsPut_payload wf)
  | _ => cases kind

/-! ### The payload lengths of the requests (R187) -/

/-- A reader that reads every list of n bytes, and no other. -/
def ReadsExactly {α : Type} (n : Nat) (read : List Byte → Option α) : Prop := ∀ p, read p = none ↔ p.length ≠ n

theorem readsExactly_zero {α : Type} {read : List Byte → Option α} :
    ReadsExactly 0 read ↔ read [] ≠ none ∧ ∀ a p, read (a :: p) = none := by
  refine ⟨fun h => ⟨fun none => (h []).mp none rfl, fun a p => (h _).mpr (Nat.succ_ne_zero _)⟩, fun ⟨nil, cons⟩ p => ?_⟩
  cases p with
  | nil => exact iff_of_false nil (not_not_intro rfl)
  | cons a p => exact iff_of_true (cons a p) (Nat.succ_ne_zero _)

theorem readsExactly_succ {α : Type} {n : Nat} {read : List Byte → Option α} :
    ReadsExactly (n + 1) read ↔ read [] = none ∧ ∀ a, ReadsExactly n fun p => read (a :: p) := by
  refine ⟨fun h => ⟨(h []).mpr (Nat.succ_ne_zero _).symm, fun a p => (h _).trans (not_congr Nat.succ_inj)⟩,
    fun ⟨nil, cons⟩ p => ?_⟩
  cases p with
  | nil => exact iff_of_true nil (Nat.succ_ne_zero _).symm
  | cons a p => exact (cons a p).trans (not_congr Nat.succ_inj.symm)

theorem ReadsExactly.map {α β : Type} {n : Nat} {read : List Byte → Option α} (h : ReadsExactly n read) (f : α → β) :
    ReadsExactly n fun p => (read p).map f :=
  fun p => Option.map_eq_none_iff.trans (h p)

theorem readNone_exactly (i : Instr) : ReadsExactly 0 (readNone i) := by
  simp [readsExactly_zero, readNone]

theorem readByte_exactly (f : Byte → Instr) : ReadsExactly 1 (readByte f) := by
  simp [readsExactly_succ, readsExactly_zero, readByte]

theorem readScanSet_exactly : ReadsExactly 2 readScanSet := by
  simp [readsExactly_succ, readsExactly_zero, readScanSet]

theorem readChartOpen_exactly : ReadsExactly 2 readChartOpen := by
  simp [readsExactly_succ, readsExactly_zero, readChartOpen]

theorem readNoticeMaskSet_exactly : ReadsExactly 3 readNoticeMaskSet := by
  simp [readsExactly_succ, readsExactly_zero, readNoticeMaskSet]

theorem readSongAbort_exactly : ReadsExactly 3 readSongAbort := by
  simp [readsExactly_succ, readsExactly_zero, readSongAbort]

theorem readTempoClear_exactly : ReadsExactly 4 readTempoClear := by
  simp [readsExactly_succ, readsExactly_zero, readTempoClear]

theorem readSongArm_exactly : ReadsExactly 5 readSongArm := by
  simp [readsExactly_succ, readsExactly_zero, readSongArm]

theorem readPanelSet_exactly : ReadsExactly 9 readPanelSet := by
  simp [readsExactly_succ, readsExactly_zero, readPanelSet]

theorem readStationSet_exactly : ReadsExactly 10 readStationSet := by
  simp [readsExactly_succ, readsExactly_zero, readStationSet]

theorem readCueChannelSet_exactly : ReadsExactly 13 readCueChannelSet := by
  simp [readsExactly_succ, readsExactly_zero, readCueChannelSet]

theorem readWindowsSet_exactly : ReadsExactly 14 readWindowsSet := by
  simp [readsExactly_succ, readsExactly_zero, readWindowsSet]

/-- Eight two-byte fields, and what is read behind them. -/
theorem ReadsExactly.afterEight {α : Type} {n : Nat} {next : PerResult Half × List Byte → Option α}
    (h : ∀ p, ReadsExactly n fun rest => next (p, rest)) : ReadsExactly (n + 16) fun p => (readEight p).bind next := by
  simp only [readsExactly_succ, readEight, Option.bind_none, Option.bind_some, true_and]
  exact fun _ _ _ _ _ _ _ _ _ _ _ _ _ _ _ _ => h _

/-- The two fields of SCORING_SET behind the weights and the deltas. -/
def readLives (weights deltas : PerResult Half) : List Byte → Option Instr
  | [a, b, c, d] => some (.scoringSet ⟨weights, deltas, half a b, half c d⟩)
  | _ => none

theorem readLives_exactly (weights deltas : PerResult Half) : ReadsExactly 4 (readLives weights deltas) := by
  simp [readsExactly_succ, readsExactly_zero, readLives]

theorem readScoringSet_eq :
    readScoringSet = fun p => (readEight p).bind fun x => (readEight x.2).bind fun y => readLives x.1 y.1 y.2 := by
  funext p
  unfold readScoringSet
  cases readEight p with
  | none => rfl
  | some x =>
    dsimp only [Option.bind_some]
    split
    · rename_i deltas a b c d read
      rw [read]
      rfl
    · rename_i other
      cases read : readEight x.2 with
      | none => rfl
      | some y =>
        rw [Option.bind_some, readLives]
        exact fun a b c d rest => other y.1 a b c d (by rw [read, ← rest])

theorem readScoringSet_exactly : ReadsExactly 36 readScoringSet := by
  rw [readScoringSet_eq]
  exact ReadsExactly.afterEight (n := 20) fun weights =>
    ReadsExactly.afterEight (n := 4) (next := fun y => readLives weights y.1 y.2) fun deltas =>
      readLives_exactly weights deltas

theorem readRungs_exactly (n : Nat) : ReadsExactly (5 * n) (readRungs n) := by
  induction n with
  | zero => simp [readsExactly_zero, readRungs]
  | succ n ih =>
    rw [Nat.mul_succ]
    simp only [readsExactly_succ, readRungs, true_and]
    exact fun _ _ _ _ _ => ih.map _

theorem readSteps_exactly (n : Nat) : ReadsExactly (5 * n) (readSteps n) := by
  induction n with
  | zero => simp [readsExactly_zero, readSteps]
  | succ n ih =>
    rw [Nat.mul_succ]
    simp only [readsExactly_succ, readSteps, true_and]
    exact fun _ _ _ _ _ => ih.map _

theorem readNotes_exactly (n : Nat) : ReadsExactly (10 * n) (readNotes n) := by
  induction n with
  | zero => simp [readsExactly_zero, readNotes]
  | succ n ih =>
    rw [Nat.mul_succ]
    simp only [readsExactly_succ, readNotes, true_and]
    exact fun _ _ _ _ _ _ _ _ _ _ => ih.map _

theorem readSegments_exactly (n : Nat) : ReadsExactly (14 * n) (readSegments n) := by
  induction n with
  | zero => simp [readsExactly_zero, readSegments]
  | succ n ih =>
    rw [Nat.mul_succ]
    simp only [readsExactly_succ, readSegments, true_and]
    exact fun _ _ _ _ _ _ _ _ _ _ _ _ _ _ => ih.map _

/-- R187: a counted request's count byte is in range, and as many records follow as it says. -/
theorem counted_none {α β : Type} {low high size : Nat} {n : Byte} {rest : List Byte} {read : List Byte → Option α}
    {f : α → β} (exactly : ReadsExactly (size * n.toNat) read) :
    (if low ≤ n.toNat ∧ n.toNat ≤ high then (read rest).map f else none) = none ↔
      ¬ (low ≤ n.toNat ∧ n.toNat ≤ high ∧ rest.length = size * n.toNat) := by
  split
  · rename_i inRange
    rw [exactly.map f rest]
    exact not_congr (by simp only [inRange, true_and])
  · rename_i outside
    exact iff_of_true rfl fun h => outside ⟨h.1, h.2.1⟩

/-- The number that byte i of a payload carries. -/
def byteAt (p : List Byte) (i : Nat) : Nat := (p.getD i 0).toNat

theorem readTempoPut_none (p : List Byte) :
    readTempoPut p = none ↔ ¬ (1 ≤ byteAt p 0 ∧ byteAt p 0 ≤ 16 ∧ p.length = 1 + 14 * byteAt p 0) := by
  cases p with
  | nil => exact iff_of_true rfl (by simp [byteAt])
  | cons n rest =>
    refine (counted_none (readSegments_exactly n.toNat)).trans (not_congr ?_)
    simp only [byteAt, List.getD_cons_zero, List.length_cons]
    omega

theorem readLadderSet_none (p : List Byte) : readLadderSet p = none ↔ p.length ≠ 1 + 5 * byteAt p 0 := by
  cases p with
  | nil => exact iff_of_true rfl (by simp [byteAt])
  | cons n rest =>
    refine ((readRungs_exactly n.toNat).map Instr.ladderSet rest).trans (not_congr ?_)
    simp only [byteAt, List.getD_cons_zero, List.length_cons]
    omega

theorem readCueStepsPut_none (p : List Byte) :
    readCueStepsPut p = none ↔ ¬ (1 ≤ byteAt p 1 ∧ byteAt p 1 ≤ 40 ∧ p.length = 2 + 5 * byteAt p 1) := by
  match p with
  | [] | [_] => exact iff_of_true rfl (by simp [byteAt])
  | s :: n :: rest =>
    refine (counted_none (readSteps_exactly n.toNat)).trans (not_congr ?_)
    simp only [byteAt, List.getD_cons_zero, List.getD_cons_succ, List.length_cons]
    omega

theorem readNotesPut_none (p : List Byte) :
    readNotesPut p = none ↔ ¬ (1 ≤ byteAt p 3 ∧ byteAt p 3 ≤ 23 ∧ p.length = 4 + 10 * byteAt p 3) := by
  match p with
  | [] | [_] | [_, _] | [_, _, _] => exact iff_of_true rfl (by simp [byteAt])
  | s :: a :: b :: n :: rest =>
    refine (counted_none (readNotes_exactly n.toNat)).trans (not_congr ?_)
    simp only [byteAt, List.getD_cons_zero, List.getD_cons_succ, List.length_cons]
    omega

theorem readLineBaseSet_none (p : List Byte) : readLineBaseSet p = none ↔ ¬ (2 ≤ p.length ∧ p.length ≤ 49) := by
  cases p with
  | nil => exact iff_of_true rfl (by simp)
  | cons first levels =>
    simp only [readLineBaseSet, ite_eq_right_iff, reduceCtorEq, imp_false, List.length_cons]
    omega

theorem ofOption_badLength {o : Option Instr} : Decoded.ofOption o = .badLength ↔ o = none := by
  cases o <;> simp [Decoded.ofOption]

/-- R177, test 3: a KIND of 11.2's requests is 0x01 to 0x21. -/
theorem decodeRequest_unknown {k : Byte} (other : k.toNat = 0 ∨ 0x21 < k.toNat) (p : List Byte) :
    decodeRequest k p = .unknownKind := by
  unfold decodeRequest
  split
  case h_34 => rfl
  all_goals omega

/-- R187: the payload lengths that the request of kind code n may have. -/
def LengthFits (n : Nat) (p : List Byte) : Prop :=
  (n ∈ [0x01, 0x02, 0x15, 0x17] ∧ p.length = 0) ∨
  (n ∈ [0x06, 0x07, 0x10, 0x11, 0x12, 0x13, 0x18, 0x19, 0x1A, 0x1B, 0x1E, 0x1F, 0x21] ∧ p.length = 1) ∨
  (n ∈ [0x04, 0x0E] ∧ p.length = 2) ∨ (n ∈ [0x03, 0x16] ∧ p.length = 3) ∨ (n = 0x08 ∧ p.length = 4) ∨
  (n = 0x14 ∧ p.length = 5) ∨ (n = 0x05 ∧ p.length = 9) ∨ (n = 0x0D ∧ p.length = 10) ∨
  (n = 0x1D ∧ p.length = 13) ∨ (n = 0x0A ∧ p.length = 14) ∨ (n = 0x0B ∧ p.length = 36) ∨
  (n = 0x09 ∧ 1 ≤ byteAt p 0 ∧ byteAt p 0 ≤ 16 ∧ p.length = 1 + 14 * byteAt p 0) ∨
  (n = 0x0C ∧ p.length = 1 + 5 * byteAt p 0) ∨
  (n = 0x0F ∧ 1 ≤ byteAt p 3 ∧ byteAt p 3 ≤ 23 ∧ p.length = 4 + 10 * byteAt p 3) ∨
  (n = 0x1C ∧ 1 ≤ byteAt p 1 ∧ byteAt p 1 ≤ 40 ∧ p.length = 2 + 5 * byteAt p 1) ∨
  (n = 0x20 ∧ 2 ≤ p.length ∧ p.length ≤ 49)

/-- R187, test 4 of R177: BAD_LENGTH by the kind code: each kind's reader answers none at the lengths that it may not
have. -/
theorem decodeRequest_badLength (k : Byte) (p : List Byte) :
    decodeRequest k p = .badLength ↔ 1 ≤ k.toNat ∧ k.toNat ≤ 0x21 ∧ ¬ LengthFits k.toNat p := by
  by_cases other : k.toNat = 0 ∨ 0x21 < k.toNat
  · rw [decodeRequest_unknown other]
    exact iff_of_false nofun fun ⟨low, high, _⟩ => by omega
  · have known : 1 ≤ k.toNat ∧ k.toNat ≤ 0x21 := by omega
    obtain ⟨low, high⟩ := known
    unfold decodeRequest LengthFits
    generalize k.toNat = n at low high ⊢
    interval_cases n
    all_goals
      simp [ofOption_badLength, readNone_exactly _ p, readByte_exactly _ p, readScanSet_exactly p,
        readChartOpen_exactly p, readNoticeMaskSet_exactly p, readSongAbort_exactly p, readTempoClear_exactly p,
        readSongArm_exactly p, readPanelSet_exactly p, readStationSet_exactly p, readCueChannelSet_exactly p,
        readWindowsSet_exactly p, readScoringSet_exactly p, readTempoPut_none p, readLadderSet_none p, readNotesPut_none p,
        readCueStepsPut_none p, readLineBaseSet_none p]

end Sys2Proof
end

section
/-! SUPPORT. Taking a link frame (R177, R189): the four tests of a frame, what answers it, and the commands of requests. -/

namespace Sys2Proof.Machine

/-! ### The parts of a stored frame and its tests (R173, R177) -/

/-- The frame of a KIND and a payload, ended complete. -/
def completeFrame (kind : Byte) (payload : List Byte) : InFrame :=
  { bytes := frameBytes kind payload, truncated := false }

section
variable {kind : Byte} {payload : List Byte}

theorem covered_completeFrame :
    (completeFrame kind payload).covered = BitVec.ofNat 8 payload.length :: kind :: payload := by
  have length : (frameBytes kind payload).length - 3 = payload.length + 2 := by
    simp only [frameBytes, List.length_cons, List.length_append, length_be16]
    omega
  rw [InFrame.covered, completeFrame, length]
  exact List.take_left' rfl

theorem check_completeFrame :
    (completeFrame kind payload).check = be16 (crc16 (completeFrame kind payload).covered) := by
  have length : (frameBytes kind payload).length - 2 = (payload.length + 2) + 1 := by
    simp only [frameBytes, List.length_cons, List.length_append, length_be16]
    omega
  rw [covered_completeFrame, InFrame.check, completeFrame, length]
  exact List.drop_left' rfl

theorem payload_completeFrame : (completeFrame kind payload).payload = payload := by
  rw [InFrame.payload, covered_completeFrame]
  rfl

end

section
variable {f : InFrame} {k : Byte}

theorem test_truncated (cut : f.truncated = true) : f.test = .answered (rejectReply .truncated f.len f.kind) := by
  simp only [InFrame.test, cut, if_true]

theorem test_badCheck (whole : f.truncated = false) (bad : f.check ≠ be16 (crc16 f.covered)) :
    f.test = .answered (rejectReply .badCheck f.len f.kind) := by
  simp only [InFrame.test, whole, Bool.false_eq_true, if_false, ne_eq, bad, not_false_eq_true, if_true]

theorem test_unknownKind (whole : f.truncated = false) (good : f.check = be16 (crc16 f.covered)) (kind : f.kind = some k)
    (unknown : decodeRequest k f.payload = .unknownKind) :
    f.test = .answered (rejectReply .unknownKind f.len (some k)) := by
  simp only [InFrame.test, whole, Bool.false_eq_true, if_false, ne_eq, good, not_true_eq_false, kind, Option.getD_some,
    unknown]

theorem test_badLength (whole : f.truncated = false) (good : f.check = be16 (crc16 f.covered)) (kind : f.kind = some k)
    (short : decodeRequest k f.payload = .badLength) : f.test = .answered (replyTo k .badLength []) := by
  simp only [InFrame.test, whole, Bool.false_eq_true, if_false, ne_eq, good, not_true_eq_false, kind, Option.getD_some,
    short]

theorem test_request {i : Instr} (whole : f.truncated = false) (good : f.check = be16 (crc16 f.covered))
    (kind : f.kind = some k) (read : decodeRequest k f.payload = .request i) : f.test = .request i := by
  simp only [InFrame.test, whole, Bool.false_eq_true, if_false, ne_eq, good, not_true_eq_false, kind, Option.getD_some,
    read]

theorem handFrame_answered {r : Reply} (found : f.test = .answered r) (s : State) : handFrame f s = (s, r) := by
  simp only [handFrame, found]

theorem handFrame_request {i : Instr} (found : f.test = .request i) : handFrame f = handRequest i := by
  funext s
  simp only [handFrame, found]

end

/-- R177, test 5: the frame of a well-formed request passes the tests before it. -/
theorem test_frame {i : Instr} (wf : i.wf = true) (request : i.kind ≠ none) :
    InFrame.test { bytes := i.frame, truncated := false } = .request i := by
  cases kind : i.kind with
  | none => exact absurd kind request
  | some k =>
    have frame : ({ bytes := i.frame, truncated := false } : InFrame) = completeFrame k i.payload := by
      simp only [Instr.frame, kind, completeFrame]
    rw [frame]
    exact test_request rfl check_completeFrame rfl (payload_completeFrame ▸ decodeRequest_payload wf kind)

/-! ### FRAME_TAKEN and the commands of requests (R177, log 1) -/

/-- What an open link port is (log 1). -/
theorem isOpen_iff {l : LinkPort} :
    l.isOpen = true ↔ l.slot = none ∧ l.ended = [] ∧ l.framer = .hunt ∧ l.rxd = .high ∧ l.resetDue = false := by
  simp only [LinkPort.isOpen, Bool.and_eq_true, Option.isNone_iff_eq_none, List.isEmpty_iff, decide_eq_true_eq,
    Bool.not_eq_true', and_assoc]

/-- R177: the oldest ended frame leaves the buffer, and is answered. -/
theorem frameTaken_taken {f : InFrame} {rest : List InFrame} {s : State} (empty : s.link.slot = none)
    (due : s.link.resetDue = false) (ended : s.link.ended = f :: rest) :
    exec .frameTaken s = .next ((s.mapLink fun l => { l with ended := rest }).answer (handFrame f)) := by
  have can : s.link.canTake = true := by
    simp only [LinkPort.canTake, LinkPort.frameDue, empty, ended, due, Option.isNone_none, List.isEmpty_cons,
      Bool.not_false, Bool.and_self]
  simp only [exec, execFrameTaken, can, ended, State.mapLink, LinkPort.dropFrame, List.tail_cons]

/-- R177, tests 1 to 4: a frame that the link port answers changes nothing else. -/
theorem frameTaken_answered {f : InFrame} {rest : List InFrame} {s : State} {r : Reply} (empty : s.link.slot = none)
    (due : s.link.resetDue = false) (ended : s.link.ended = f :: rest) (quiet : s.quiescent)
    (found : f.test = .answered r) :
    exec .frameTaken s = .next ((s.mapLink fun l => { l with ended := rest }).replied r) :=
  (frameTaken_taken empty due ended).trans (congrArg _ (answer_eq (handFrame_answered found _) quiet rfl rfl))

/-- Log 1: a command of a request is that request handed to its block, where the link port is open. -/
theorem exec_request {i : Instr} (request : i.kind ≠ none) (s : State) :
    exec i s = .next (s.submit i (handRequest i)) := by
  cases i with
  | pinReset | startFallingEdge | wclkEdge | watchTimerExpiry | haltTimerExpiry | scanRoundStart | scanRoundEnd
  | stepExpiry | rxdByte | gapTimerExpiry | linkBreak | frameTaken | transmitComplete | systemResetEvent
  | rxdReturnsHigh => exact absurd rfl request
  | _ => rfl

/-- The inbound buffer with one frame that has ended. -/
def State.withFrame (f : InFrame) (s : State) : State := s.mapLink fun l => { l with ended := [f] }

/-- An empty buffer that gets a frame and gives it away is as it was. -/
theorem withFrame_dropped {f : InFrame} {s : State} (none : s.link.ended = []) :
    ((s.withFrame f).mapLink fun l => { l with ended := [] }) = s := by
  simp only [State.withFrame, State.mapLink, ← none]

/-- Settles O5: the frame passes the tests of R177, and its request is the command's. -/
theorem frameOnTheLinkIsTheCommand : Obligations.FrameOnTheLinkIsTheCommand := by
  unfold Obligations.FrameOnTheLinkIsTheCommand
  intro i s wf request isOpen
  obtain ⟨slot, ended, _, _, due⟩ := isOpen_iff.mp isOpen
  show exec .frameTaken (s.withFrame { bytes := i.frame, truncated := false }) = exec i s
  rw [frameTaken_taken (by exact slot) (by exact due) rfl, withFrame_dropped ended,
    handFrame_request (test_frame wf request), exec_request request, submit_open wf isOpen]

/-! ### What a reply and a REJECT carry (R189) -/

/-- R189: the five bytes of a REJECT. -/
theorem rejectReply_eq (reason : RejectReason) (len : Byte) (kind : Option Byte) :
    rejectReply reason len kind =
      { kind := 0xBF#8,
        payload := [0x03#8, BitVec.ofNat 8 reason.code, len, if kind.isSome then 1#8 else 0#8, kind.getD 0],
        thenReset := false } := by
  cases kind <;> rfl

/-- Settles O8: the tests in their order, the lengths by the kind code, and the bytes of replies. -/
theorem frameTakenIsAnsweredByTheLinkPort : Obligations.FrameTakenIsAnsweredByTheLinkPort := by
  unfold Obligations.FrameTakenIsAnsweredByTheLinkPort
  refine ⟨fun f rest s empty due ended quiet => ?_, decodeRequest_badLength,
    fun k len kind code fields r => ⟨rfl, fun p named => ?_, rfl⟩, by decide⟩
  · have answered {r : Reply} := frameTaken_answered (r := r) empty due ended quiet
    exact ⟨fun cut => answered (test_truncated cut), fun whole bad => answered (test_badCheck whole bad),
      fun k whole good kind other => answered (test_unknownKind whole good kind (decodeRequest_unknown other _)),
      fun k whole good kind short => answered (test_badLength whole good kind short)⟩
  · rw [rejectReply_eq]
    simp only [List.mem_cons, List.not_mem_nil, or_false] at named
    rcases named with rfl | rfl | rfl <;> rfl

end Sys2Proof.Machine
end

section
/-! SUPPORT. The transmitter and the report queue (R176, R178 to R182): when the transmitter chooses and what, the end of a
transmission, and the offer of a report. -/

namespace Sys2Proof.Machine

/-! ### The transmitter's choice (R179) -/

section
variable {l : LinkPort}

/-- R179, R185, log 4: when the transmitter is free to choose. -/
theorem txFree_iff :
    l.txFree = true ↔ l.tx = none ∧ l.resetDue = false ∧ (l.slot = none → l.ended = []) := by
  simp only [LinkPort.txFree, LinkPort.frameDue, Bool.and_eq_true, Bool.not_eq_true', Bool.and_eq_false_iff,
    Option.isNone_iff_eq_none, Bool.not_eq_false', List.isEmpty_iff, and_assoc]
  refine and_congr_right fun _ => and_congr_right fun _ => ?_
  cases l.slot <;> simp

theorem beginReport_lost (lost : 0 < l.loss) : l.beginReport = { l with tx := some (.lost l.loss), loss := 0 } :=
  if_pos lost

theorem beginReport_oldest {x : Report} {rest : List Report} (none : l.loss = 0) (queued : l.reports = x :: rest) :
    l.beginReport = { l with tx := some (.report x), reports := rest } := by
  simp only [LinkPort.beginReport, none, Nat.lt_irrefl, if_false, queued]

theorem beginReport_nothing (none : l.loss = 0) (empty : l.reports = []) : l.beginReport = l := by
  simp only [LinkPort.beginReport, none, Nat.lt_irrefl, if_false, empty]

theorem linkSettle_kept (busy : l.tx ≠ none ∨ l.resetDue = true ∨ (l.slot = none ∧ l.ended ≠ [])) : l.settle = l := by
  refine if_neg fun free => ?_
  obtain ⟨idle, due, taken⟩ := txFree_iff.mp free
  rcases busy with sending | reset | ⟨slot, ended⟩
  · exact sending idle
  · rw [due] at reset
    cases reset
  · exact ended (taken slot)

theorem linkSettle_reply {r : Reply} (idle : l.tx = none) (due : l.resetDue = false) (slot : l.slot = some r) :
    l.settle = { l with tx := some (.reply r) } := by
  have free : l.txFree = true := txFree_iff.mpr ⟨idle, due, fun none => by rw [slot] at none; cases none⟩
  simp only [LinkPort.settle, free, if_true, LinkPort.beginNext, slot]

theorem linkSettle_report (idle : l.tx = none) (due : l.resetDue = false) (slot : l.slot = none) (ended : l.ended = []) :
    l.settle = l.beginReport := by
  have free : l.txFree = true := txFree_iff.mpr ⟨idle, due, fun _ => ended⟩
  simp only [LinkPort.settle, free, if_true, LinkPort.beginNext, slot]

end

/-- The transmitter's choice is made in the link port alone. -/
theorem settle_of {s : State} {f : LinkPort → LinkPort} (chosen : s.link.settle = f s.link) : s.settle = s.mapLink f := by
  simp only [State.settle, State.mapLink, chosen]

theorem settle_kept {s : State} (kept : s.link.settle = s.link) : s.settle = s := settle_of (f := id) kept

/-! ### The end of a transmission (R178, R179, R181, R185) -/

section
variable {s : State}

/-- R178, R185: a reply leaves the slot with its last byte, and the OK of SYSTEM_RESET makes the reset due. -/
theorem transmitComplete_reply {r : Reply} {m : LinkPort} (sending : s.link.tx = some (.reply r))
    (chosen : LinkPort.settle { s.link with tx := none, slot := none, resetDue := s.link.resetDue || r.thenReset } = m) :
    exec .transmitComplete s = .next { s with link := m } := by
  simp only [exec, execTransmitComplete, State.transmitDone, sending, ← chosen]
  rfl

theorem transmitComplete_plainReply {r : Reply} {m : LinkPort} (sending : s.link.tx = some (.reply r))
    (plain : r.thenReset = false) (chosen : LinkPort.settle { s.link with slot := none, tx := none } = m) :
    exec .transmitComplete s = .next { s with link := m } :=
  transmitComplete_reply sending (by rw [plain, Bool.or_false]; exact chosen)

theorem transmitComplete_report {m : LinkPort}
    (sending : (∃ x, s.link.tx = some (.report x)) ∨ ∃ n, s.link.tx = some (.lost n))
    (chosen : LinkPort.settle { s.link with tx := none } = m) :
    exec .transmitComplete s = .next { s with link := m } := by
  rcases sending with ⟨x, sending⟩ | ⟨n, sending⟩ <;>
    (simp only [exec, execTransmitComplete, State.transmitDone, sending, ← chosen]; rfl)

end

/-- R179: what an idle transmitter with no reply to send begins. -/
theorem linkSettle_begins {l : LinkPort} (idle : l.tx = none) (due : l.resetDue = false) (slot : l.slot = none)
    (ended : l.ended = []) :
    (0 < l.loss → l.settle = { l with tx := some (.lost l.loss), loss := 0 }) ∧
    (∀ x rest, l.loss = 0 → l.reports = x :: rest → l.settle = { l with tx := some (.report x), reports := rest }) ∧
    (l.loss = 0 → l.reports = [] → l.settle = l) := by
  rw [linkSettle_report idle due slot ended]
  exact ⟨beginReport_lost, fun _ _ => beginReport_oldest, beginReport_nothing⟩

/-- Settles O9: each clause is the transmitter's choice at the link port that the command leaves. -/
theorem replySlotAndTransmitter : Obligations.ReplySlotAndTransmitter := by
  unfold Obligations.ReplySlotAndTransmitter
  refine ⟨fun r s isOpen => ?_, fun s => ⟨transmitComplete_idle, fun r sending plain due ended => ?_,
    fun r sending reset => ?_, fun sending => ⟨fun r slot due => ?_, fun slot due ended => ?_, fun busy => ?_⟩,
    fun r sending plain busy => ?_⟩, fun l s => ⟨beginReport_lost, fun x rest => beginReport_oldest,
      beginReport_nothing, fun busy => settle_kept (linkSettle_kept busy), fun r idle due slot => ?_,
      fun idle due slot ended => settle_of (linkSettle_report idle due slot ended), rfl⟩, answer_drawn⟩
  · rw [replied_link isOpen]
    simp only [State.mapLink, Option.isNone_iff_eq_none]
  · obtain ⟨lost, oldest, nothing⟩ := linkSettle_begins (l := { s.link with slot := none, tx := none }) rfl due rfl ended
    exact ⟨fun h => transmitComplete_plainReply sending plain (lost h),
      fun x rest h g => transmitComplete_plainReply sending plain (oldest x rest h g),
      fun h g => transmitComplete_plainReply sending plain (nothing h g)⟩
  · refine transmitComplete_reply sending ?_
    rw [reset, Bool.or_true]
    exact linkSettle_kept (.inr (.inl rfl))
  · exact transmitComplete_report sending (linkSettle_reply rfl due slot)
  · obtain ⟨lost, oldest, nothing⟩ := linkSettle_begins (l := { s.link with tx := none }) rfl due slot ended
    exact ⟨fun h => transmitComplete_report sending (lost h),
      fun x rest h g => transmitComplete_report sending (oldest x rest h g),
      fun h g => transmitComplete_report sending (nothing h g)⟩
  · exact transmitComplete_report sending (linkSettle_kept (.inr busy))
  · exact transmitComplete_plainReply sending plain (linkSettle_kept (.inr (busy.imp_right fun ended => ⟨rfl, ended⟩)))
  · exact settle_of (linkSettle_reply idle due slot)

/-! ### The offer of a report (R180) -/

/-- R180: the free slots that a record needs, 9 in the result class and 1 in the notice class. -/
def Report.need (r : Report) : Nat := if r.resultClass then 9 else 1

/-- R180: a record turned away is counted; the count stops at 65,535. -/
def LinkPort.counted (l : LinkPort) : LinkPort := { l with loss := min 65535 (l.loss + 1) }

theorem hasRoom_iff {l : LinkPort} {r : Report} : l.hasRoom r = true ↔ l.reports.length + r.need ≤ 64 := by
  unfold LinkPort.hasRoom LinkPort.freeSlots Report.need
  split <;> rw [decide_eq_true_iff] <;> omega

theorem enqueue_room {l : LinkPort} {r : Report} (room : l.reports.length + r.need ≤ 64) :
    l.enqueue r = { l with reports := l.reports ++ [r] } :=
  if_pos (hasRoom_iff.mpr room)

theorem enqueue_counted {l : LinkPort} {r : Report} (short : 64 < l.reports.length + r.need) :
    l.enqueue r = l.counted :=
  if_neg fun room => Nat.not_le.mpr short (hasRoom_iff.mp room)

/-- R180: the notice mask is read for notices alone. -/
theorem masked_false_iff {r : Report} {mask : BitVec 24} :
    r.masked mask = false ↔ ∀ n t, r = .notice t n → mask.getLsbD n.code = true := by
  cases r with
  | result x => exact iff_of_true rfl nofun
  | notice t n =>
    rw [Report.masked, Bool.not_eq_false']
    refine ⟨fun h m u same => ?_, fun h => h n t rfl⟩
    obtain ⟨rfl, rfl⟩ := Report.notice.inj same
    exact h

/-- R179, R180: the transmitter could begin a record beside the offer. -/
theorem beside_iff {l : LinkPort} :
    (l.txFree && l.slot.isNone) = true ↔ l.tx = none ∧ l.slot = none ∧ l.resetDue = false ∧ l.ended = [] := by
  rw [Bool.and_eq_true, txFree_iff, Option.isNone_iff_eq_none]
  tauto

section
variable {r : Report} {s : State}

theorem takeOffer_masked (masked : r.masked s.link.mask = true) : s.takeOffer r = s := if_pos masked

theorem takeOffer_plain (unmasked : r.masked s.link.mask = false)
    (apart : (!s.link.hasRoom r && s.link.txFree && s.link.slot.isNone) = false) :
    s.takeOffer r = s.mapLink (LinkPort.enqueue r) := by
  simp only [State.takeOffer, unmasked, apart, Bool.false_eq_true, if_false]

/-- R180: where room is short beside a transmitter that is free, the offer or the taking comes first. -/
theorem takeOffer_beside (unmasked : r.masked s.link.mask = false)
    (beside : (!s.link.hasRoom r && s.link.txFree && s.link.slot.isNone) = true) :
    ∃ u, Drawn s u ∧ (s.takeOffer r = u.mapLink (LinkPort.enqueue r) ∨
      s.takeOffer r = u.mapLink fun l => l.beginReport.enqueue r) := by
  have drawn : Drawn s (s.choose 2).2 := drawn_of_eq (choose_snd 2 s)
  simp only [State.takeOffer, unmasked, beside, Bool.false_eq_true, if_false, if_true]
  split <;> (rename_i chosen; rw [chosen] at drawn)
  · exact ⟨_, drawn, .inl rfl⟩
  · exact ⟨_, drawn, .inr rfl⟩

end

/-- R180, R181: a LOST report is begun, and the record that finds no room is the first that the new count counts. -/
theorem beginReport_enqueue_lost {l : LinkPort} {r : Report} (lost : 0 < l.loss)
    (short : 64 < l.reports.length + r.need) :
    l.beginReport.enqueue r = { l with tx := some (.lost l.loss), loss := 1 } := by
  rw [beginReport_lost lost]
  exact enqueue_counted short

/-- R180: the oldest record is begun, and the offer finds one more free slot. -/
theorem beginReport_enqueue_oldest {l : LinkPort} {r first : Report} {rest : List Report} (none : l.loss = 0)
    (queued : l.reports = first :: rest) :
    l.beginReport.enqueue r =
      { l with
        tx := some (.report first), reports := if rest.length + r.need ≤ 64 then rest ++ [r] else rest,
        loss := if rest.length + r.need ≤ 64 then 0 else 1 } := by
  rw [beginReport_oldest none queued]
  by_cases room : rest.length + r.need ≤ 64
  · rw [enqueue_room room, if_pos room, if_pos room, ← none]
  · rw [enqueue_counted (Nat.not_le.mp room), if_neg room, if_neg room, LinkPort.counted, none]
    rfl

/-- R180: where room is short and the transmitter is free: the offer first, or the taking of a LOST report or of the oldest
record first. -/
theorem takeOffer_short_free {r : Report} {s : State} (unmasked : r.masked s.link.mask = false)
    (short : 64 < s.link.reports.length + r.need)
    (free : s.link.tx = none ∧ s.link.slot = none ∧ s.link.resetDue = false ∧ s.link.ended = []) :
    ∃ u, Drawn s u ∧ (s.takeOffer r = u.mapLink LinkPort.counted ∨
      (0 < s.link.loss ∧ s.takeOffer r = u.mapLink fun l => { l with tx := some (.lost l.loss), loss := 1 }) ∨
      (s.link.loss = 0 ∧ ∃ first rest, s.link.reports = first :: rest ∧
        s.takeOffer r = u.mapLink fun l =>
          { l with
            tx := some (.report first), reports := if rest.length + r.need ≤ 64 then rest ++ [r] else rest,
            loss := if rest.length + r.need ≤ 64 then 0 else 1 })) := by
  have full : s.link.hasRoom r = false := eq_false_of_ne_true fun room => Nat.not_le.mpr short (hasRoom_iff.mp room)
  obtain ⟨u, drawn, taken⟩ := takeOffer_beside unmasked (by rw [Bool.and_assoc, beside_iff.mpr free, full]; rfl)
  have link : u.link = s.link := by rw [drawn]
  refine ⟨u, drawn, ?_⟩
  rw [← link] at short ⊢
  have onLink {f g : LinkPort → LinkPort} (same : f u.link = g u.link) : u.mapLink f = u.mapLink g :=
    congrArg (fun l => { u with link := l }) same
  rcases taken with offerFirst | takingFirst
  · exact .inl (offerFirst.trans (onLink (enqueue_counted short)))
  · rcases Nat.eq_zero_or_pos u.link.loss with none | lost
    · cases queued : u.link.reports with
      | nil =>
        have few : r.need ≤ 9 := by unfold Report.need; split <;> decide
        rw [queued, List.length_nil] at short
        omega
      | cons first rest =>
        exact .inr (.inr ⟨none, first, rest, rfl, takingFirst.trans (onLink (beginReport_enqueue_oldest none queued))⟩)
    · exact .inr (.inl ⟨lost, takingFirst.trans (onLink (beginReport_enqueue_lost lost short))⟩)

theorem need_eq {r : Report} {need : Nat}
    (cls : (((∃ x, r = .result x) ∨ ∃ m t, r = .notice t (.measure m)) ∧ need = 9) ∨
      ((∃ n t, r = .notice t n ∧ ∀ m, n ≠ .measure m) ∧ need = 1)) : r.need = need := by
  rcases cls with ⟨⟨x, rfl⟩ | ⟨m, t, rfl⟩, rfl⟩ | ⟨⟨n, t, rfl, other⟩, rfl⟩
  · rfl
  · rfl
  · cases n with
    | measure m => exact absurd rfl (other m)
    | _ => rfl

/-- Settles O10: the mask, the room and the free transmitter decide the offer; the codes and the pins are the model's. -/
theorem reportOfferedToTheQueueAndItsPins : Obligations.ReportOfferedToTheQueueAndItsPins := by
  unfold Obligations.ReportOfferedToTheQueueAndItsPins
  refine ⟨fun r s need cls => ?_, fun _ _ _ _ _ _ _ _ _ _ _ _ _ _ _ => rfl, fun l => ⟨decide_eq_true_iff, ?_⟩⟩
  · obtain rfl := need_eq cls
    refine ⟨fun n t notice masked => takeOffer_masked (by rw [notice, Report.masked, masked]; rfl),
      fun enabled => ?_, fun none => offer_eq_takeOffer none r, fun ps posting => offer_posts posting r⟩
    have unmasked := masked_false_iff.mpr enabled
    refine ⟨fun room => ?_, fun short busy => ?_, fun short free => ?_⟩
    · rw [takeOffer_plain unmasked (by rw [hasRoom_iff.mpr room]; rfl)]
      exact congrArg (fun l => { s with link := l }) (enqueue_room room)
    · have apart : (s.link.txFree && s.link.slot.isNone) = false := eq_false_of_ne_true (mt beside_iff.mp busy)
      rw [takeOffer_plain unmasked (by rw [Bool.and_assoc, apart, Bool.and_false])]
      exact congrArg (fun l => { s with link := l }) (enqueue_counted short)
    · exact takeOffer_short_free unmasked short free
  · simp only [LinkPort.atn, Bool.or_eq_true, Bool.not_eq_true', List.isEmpty_eq_false_iff, decide_eq_true_eq]

end Sys2Proof.Machine
end

section
/-! SUPPORT. The resets and the link port's own requests (R183 to R186): the system reset block by block, the values of a pin
reset, and how a request command arrives. -/

namespace Sys2Proof.Machine

/-! ### The system reset (R185) -/

/-- R185: the reset leaves the transmitter nothing to choose. -/
theorem systemReset_settle (s : State) : s.systemReset.settle = s.systemReset := by
  refine settle_kept ?_
  by_cases free : s.systemReset.link.txFree = true
  · obtain ⟨idle, due, ended⟩ := txFree_iff.mp free
    rw [linkSettle_report idle due rfl (ended rfl), beginReport_nothing rfl rfl]
  · exact if_neg free

theorem systemResetEvent_due {s : State} (due : s.link.resetDue = true) :
    exec .systemResetEvent s = .next s.systemReset := by
  simp only [exec, execSystemResetEvent, due, if_true, systemReset_settle]

theorem systemReset_station (s : State) (k : StationId) : s.systemReset.station k = (s.station k).cleared := by
  simp [State.station, State.systemReset, Station.systemReset]

/-- R36: a panel channel at a system reset. -/
theorem systemReset_panel (sc : Scanner) (c : PanelId) :
    sc.systemReset.channels[c] =
      { sc.channels[c] with
        contact := if (sc.devices[deviceOf c]).presence = .absent then .fault else .up,
        dwell := 0, crossing := none, stuckCount := 0 } := by
  simp [Scanner.systemReset]

theorem systemReset_group (sc : Scanner) (k : StationId) :
    sc.systemReset.groups[k] = { sc.groups[k] with job := none } := by
  simp [Scanner.systemReset]

theorem systemReset_cueChannel (e : CueEngine) (c : ChannelId) :
    e.systemReset.channels[c] =
      { e.channels[c] with
        state := .off, pointer := 0, waiting := [], overrun := false, lastLine := none, serial := 0 } := by
  simp [CueEngine.systemReset]

theorem systemReset_line (e : CueEngine) (n : LineId) :
    e.systemReset.lines[n] = { base := (e.lines[n]).base, current := (e.lines[n]).base, owner := none } := by
  simp [CueEngine.systemReset, Line.toBase]

/-- Settles O11: the reset block by block. -/
theorem systemResetEventResetsEveryBlock : Obligations.SystemResetEventResetsEveryBlock := by
  unfold Obligations.SystemResetEventResetsEveryBlock
  refine fun s => ⟨fun idle => ?_, fun due => ⟨s.systemReset, systemResetEvent_due due, rfl, rfl, ⟨rfl, rfl, rfl, rfl⟩,
    rfl, fun k => ?_, rfl, rfl, rfl, rfl, systemReset_panel s.scanner, systemReset_group s.scanner, rfl,
    systemReset_cueChannel s.cue, systemReset_line s.cue, rfl, rfl, rfl, rfl, rfl, rfl, rfl, rfl, rfl, rfl, rfl, rfl⟩⟩
  · simp only [exec, execSystemResetEvent, idle, Bool.false_eq_true, if_false]
  · rw [systemReset_station]
    exact ⟨rfl, rfl, rfl, rfl, rfl, rfl, rfl, rfl, rfl, rfl, rfl, rfl, rfl, rfl, rfl, rfl, rfl, rfl, rfl⟩

/-! ### The pin reset (R186) -/

theorem reset_station (k : StationId) : State.reset.station k = Station.reset := by
  simp [State.station, State.reset]

theorem reset_device (d : DeviceId) : State.reset.scanner.devices[d] = Device.reset := by
  simp [State.reset, Scanner.reset]

theorem reset_panel (c : PanelId) : State.reset.scanner.channels[c] = Channel.reset := by
  simp [State.reset, Scanner.reset]

theorem reset_group (k : StationId) : State.reset.scanner.groups[k] = PanelGroup.reset := by
  simp [State.reset, Scanner.reset]

theorem reset_line (n : LineId) : State.reset.cue.lines[n] = { base := 0, current := 0, owner := none } := by
  simp [State.reset, CueEngine.reset]

theorem reset_slot (slot : SlotId) : State.reset.cue.memory[slot] = CueStep.reset := by
  simp [State.reset, CueEngine.reset]

theorem reset_cueChannel (c : ChannelId) : State.reset.cue.channels[c] = CueChannel.reset := by
  simp [State.reset, CueEngine.reset]

/-- Settles O12: the reset state with the rate of the straps, and its values. -/
theorem pinResetAndItsValues : Obligations.PinResetAndItsValues := by
  unfold Obligations.PinResetAndItsValues
  refine ⟨fun straps s => rfl, rfl, rfl, rfl, rfl, rfl, rfl, rfl, rfl, rfl, reset_device, reset_panel, reset_group,
    fun k => ?_, rfl, rfl, rfl, rfl, rfl, rfl, rfl, rfl, rfl, rfl, rfl, rfl, rfl, rfl, reset_line, reset_slot,
    reset_cueChannel, rfl, rfl, rfl, rfl, rfl, rfl, rfl, rfl⟩
  rw [reset_station]
  exact ⟨rfl, rfl, rfl, rfl, rfl, rfl, rfl, rfl, rfl, rfl, rfl, rfl, rfl, rfl, rfl, rfl, rfl, rfl, rfl⟩

/-- The part right after reset takes a request at once (log 16). -/
theorem reset_ready : State.reset.ready := ⟨by decide, rfl, rfl, rfl⟩

theorem reset_ordered : State.reset.Ordered :=
  ⟨tempoMapOk_nil, fun k => ordered_of_nil (by rw [reset_station]; rfl) (by rw [reset_station]; rfl)⟩

/-- Settles O60: the invariants from the values of the reset. -/
theorem invariantsHoldAtReset : Obligations.InvariantsHoldAtReset := by
  unfold Obligations.InvariantsHoldAtReset
  refine ⟨reset_ready, reset_ordered, Nat.zero_le _, Nat.zero_le _, Nat.zero_le _, Nat.zero_le _, fun c => ?_, fun k => ?_,
    ⟨by decide, by decide, by decide, rfl, by decide⟩, fun n => ?_⟩
  · rw [reset_cueChannel]
    exact Nat.zero_le _
  · rw [reset_station]
    exact ⟨Nat.zero_le _, Nat.zero_le _, rfl, rfl⟩
  · rw [reset_line]

/-! ### The link port's requests (R183 to R185) -/

/-- Settles O13: IDENTIFY leaves the part as it is, but for its reply. -/
theorem identifyIsAnsweredOk : Obligations.IdentifyIsAnsweredOk := by
  unfold Obligations.IdentifyIsAnsweredOk
  exact fun s ready => congrArg _ (submit_refused rfl ready rfl)

/-- R188: a notice mask names a kind that does not exist where a bit of 18 to 23 is set. -/
theorem namesUnknownNotice_iff {mask : BitVec 24} :
    namesUnknownNotice mask = true ↔ ∃ i, 18 ≤ i ∧ mask.getLsbD i = true := by
  rw [namesUnknownNotice, decide_eq_true_iff]
  constructor
  · intro some
    by_contra none
    refine some (BitVec.eq_of_getLsbD_eq fun i low => ?_)
    simp only [not_exists, not_and, Bool.not_eq_true] at none
    rw [BitVec.getLsbD_extractLsb', none (18 + i) (by omega), Bool.and_false]
    exact BitVec.getLsbD_zero.symm
  · rintro ⟨i, high, set⟩ zero
    have low : i < 24 := BitVec.lt_of_getLsbD set
    have clear : (mask.extractLsb' 18 6).getLsbD (i - 18) = false := by
      rw [zero]
      exact BitVec.getLsbD_zero
    rw [BitVec.getLsbD_extractLsb', Nat.add_sub_cancel' high, set, decide_eq_true (by omega : i - 18 < 6)] at clear
    cases clear

theorem takeNoticeMaskSet_refused {mask : BitVec 24} (unknown : ∃ i, 18 ≤ i ∧ mask.getLsbD i = true) (s : State) :
    takeNoticeMaskSet mask s = (s, replyFor (.noticeMaskSet mask) .badValue []) :=
  if_pos (namesUnknownNotice_iff.mpr unknown)

theorem takeNoticeMaskSet_taken {mask : BitVec 24} (known : ∀ i, 18 ≤ i → mask.getLsbD i = false) (s : State) :
    takeNoticeMaskSet mask s =
      (s.mapLink fun l => { l with mask := mask }, replyFor (.noticeMaskSet mask) .ok (be24 mask)) :=
  if_neg fun unknown => by
    obtain ⟨i, high, set⟩ := namesUnknownNotice_iff.mp unknown
    rw [known i high] at set
    cases set

/-- R172: the bytes of a frame taken by the link port one after another. -/
theorem receiveBytes_foldl (now : Nat) (bytes : List Byte) (s : State) :
    s.mapLink (LinkPort.receiveBytes now bytes) =
      bytes.foldl (fun t b => t.mapLink (LinkPort.receiveByte now b false)) s := by
  induction bytes generalizing s with
  | nil => rfl
  | cons b bytes ih => exact ih (s.mapLink (LinkPort.receiveByte now b false))

/-- Settles O14: the two requests by their checks, and the arrival by whether the link port is open. -/
theorem linkPortRequestsAndHowARequestArrives : Obligations.LinkPortRequestsAndHowARequestArrives := by
  unfold Obligations.LinkPortRequestsAndHowARequestArrives
  refine ⟨fun s ready => ⟨congrArg _ (submit_refused rfl ready rfl), fun mask => ⟨fun unknown => ?_, fun known => ?_⟩⟩,
    fun i s request => ⟨fun closed => ?_, fun ready unfit => ?_⟩, fun b error s => rfl⟩
  · exact congrArg _ (submit_refused rfl ready (takeNoticeMaskSet_refused unknown s))
  · exact congrArg _ (submit_eq rfl ready (takeNoticeMaskSet_taken known s) rfl rfl rfl rfl rfl)
  · rw [exec_request request, submit_closed closed, receiveBytes_foldl]
  · rw [exec_request request, submit_badLength unfit ready]

end Sys2Proof.Machine
end

section
/-! SUPPORT. The request codec (R187, 11.2, 11.4): a well-formed request survives its KIND and payload. -/

namespace Sys2Proof.Machine

/-- Settles O3: the round trip of the codec, request by request (`decodeRequest_payload`). -/
theorem requestsAreReadBack : Obligations.RequestsAreReadBack := by
  unfold Obligations.RequestsAreReadBack
  intro i k wf kind
  exact decodeRequest_payload wf kind

end Sys2Proof.Machine
end

section
/-! SUPPORT. The step and the queue of commands: what a step does with a command at the front. -/

namespace Sys2Proof.Machine

/-- Settles O1: the step's match on the queue takes the branch of a command at its front. -/
theorem stepTakesTheFrontCommand : Obligations.StepTakesTheFrontCommand := by
  unfold Obligations.StepTakesTheFrontCommand
  intro c rest s front
  rw [step, front]

end Sys2Proof.Machine
end
